-- ==== Sys2Proof/Word.lean ====
section
/-! DEFINITION. The data types of 00_scope.md rules R5 and R6: bytes, 16-bit words, register indices. -/

namespace Sys2Proof

/-- An unsigned 8-bit value: a V register, a timer, a memory byte, a pixel (R5 `REG_W`, `TIMER_W`). -/
abbrev Byte := BitVec 8

/-- An unsigned 16-bit value: an opcode word, I, PC, SP, a stack entry (R5 `I_W`, `PC_W`, `SP_W`, `INSN_W`). -/
abbrev Word := BitVec 16

/-- The index of a V register: the 4-bit field `x` or `y`; all 16 values are legal (R10, R63). -/
abbrev Reg := Fin 16

end Sys2Proof
end

