-- ==== Sys2Proof/Syntax.lean ====
section
/-! DEFINITION. The 24 instructions of 30_encoding.md rule R64, one constructor per row of the opcode table. -/

namespace Sys2Proof

/-- An instruction with its operands. The docstring of each constructor gives the opcode pattern, which is the
instruction's name in the spec (R69); constructor names follow the mnemonics of R64. -/
inductive Instr where
  /-- `00E0` (R130): clear the framebuffer. -/
  | cls
  /-- `00EE` (R100): return. -/
  | ret
  /-- `1nnn` (R101): jump. -/
  | jp (nnn : BitVec 12)
  /-- `2nnn` (R102): call. -/
  | call (nnn : BitVec 12)
  /-- `3xnn` (R103): skip if `V[x] = nn`. -/
  | seImm (x : Reg) (nn : Byte)
  /-- `4xnn` (R104): skip if `V[x] != nn`. -/
  | sneImm (x : Reg) (nn : Byte)
  /-- `6xnn` (R110): load immediate. -/
  | ldImm (x : Reg) (nn : Byte)
  /-- `7xnn` (R111): add immediate, no flag. -/
  | addImm (x : Reg) (nn : Byte)
  /-- `8xy0` (R112): copy register. -/
  | ldReg (x y : Reg)
  /-- `8xy2` (R113): bitwise AND. -/
  | andReg (x y : Reg)
  /-- `8xy4` (R114): add with carry flag. -/
  | addReg (x y : Reg)
  /-- `8xy5` (R115): subtract with not-borrow flag. -/
  | subReg (x y : Reg)
  /-- `Annn` (R120): load the address register. -/
  | ldI (nnn : BitVec 12)
  /-- `Cxnn` (R116): masked random byte. -/
  | rnd (x : Reg) (nn : Byte)
  /-- `Dxyn` (R131): draw an `n`-row sprite. -/
  | drw (x y : Reg) (n : BitVec 4)
  /-- `Ex9E` (R140): skip if the key `V[x]` is pressed. -/
  | skp (x : Reg)
  /-- `ExA1` (R141): skip if the key `V[x]` is not pressed. -/
  | sknp (x : Reg)
  /-- `Fx07` (R142): read the delay timer. -/
  | ldVxDT (x : Reg)
  /-- `Fx15` (R143): load the delay timer. -/
  | ldDTVx (x : Reg)
  /-- `Fx18` (R144): load the sound timer. -/
  | ldSTVx (x : Reg)
  /-- `Fx1E` (R121): add a register to the address register. -/
  | addI (x : Reg)
  /-- `Fx29` (R122): address of a font glyph. -/
  | ldF (x : Reg)
  /-- `Fx33` (R123): store the three decimal digits of a register. -/
  | ldB (x : Reg)
  /-- `Fx65` (R124): load `V[0]` to `V[x]` from memory. -/
  | ldRegs (x : Reg)
  deriving DecidableEq, Repr

end Sys2Proof
end

