-- ==== Sys2Proof/WellFormed.lean ====
section
/-! DEFINITION. Which instruction terms are well formed. 30_encoding.md rule R63: every value of every operand field
is legal in every instruction that has the field, so the operand types leave no ill-formed term and no check refuses
one. The predicate is kept so that statements can name it, and lists every constructor, so that a new one needs a
decision here. -/

namespace Sys2Proof

/-- R63: "all 16 values are legal in every instruction that has the field", and every immediate is the unsigned value
of its bits: every term of `Instr` is well formed. -/
def Instr.wellFormed : Instr → Bool
  | .cls => true
  | .ret => true
  | .jp _ => true
  | .call _ => true
  | .seImm _ _ => true
  | .sneImm _ _ => true
  | .ldImm _ _ => true
  | .addImm _ _ => true
  | .ldReg _ _ => true
  | .andReg _ _ => true
  | .addReg _ _ => true
  | .subReg _ _ => true
  | .ldI _ => true
  | .rnd _ _ => true
  | .drw _ _ _ => true
  | .skp _ => true
  | .sknp _ => true
  | .ldVxDT _ => true
  | .ldDTVx _ => true
  | .ldSTVx _ => true
  | .addI _ => true
  | .ldF _ => true
  | .ldB _ => true
  | .ldRegs _ => true

end Sys2Proof
end

