-- ==== Sys2Proof/Decode.lean ====
section
/-! DEFINITION. Decoding and encoding: 30_encoding.md rules R60 to R66, 20_memory.md rule R46 for the byte order. -/

namespace Sys2Proof

/-- R46: the opcode is `{hi, lo}`, that is `hi*256 + lo`: high byte first. -/
def wordOfBytes (hi lo : Byte) : Word := hi ++ lo

/-- The byte at the lower address of a stored word (R46, R60). -/
def hiByte (w : Word) : Byte := w.extractLsb' 8 8

/-- The byte at the higher address of a stored word (R46, R60). -/
def loByte (w : Word) : Byte := w.extractLsb' 0 8

/-! The fields of R61. -/

/-- `x = op[11:8]`. -/
def fieldX (w : Word) : Reg := (w.extractLsb' 8 4).toFin

/-- `y = op[7:4]`. -/
def fieldY (w : Word) : Reg := (w.extractLsb' 4 4).toFin

/-- `n = op[3:0]`. -/
def fieldN (w : Word) : BitVec 4 := w.extractLsb' 0 4

/-- `nn = op[7:0]`. -/
def fieldNN (w : Word) : Byte := w.extractLsb' 0 8

/-- `nnn = op[11:0]`. -/
def fieldNNN (w : Word) : BitVec 12 := w.extractLsb' 0 12

/-- One row of the opcode map (R64): the row matches `w` when `w AND mask = value`. -/
structure OpcodeRow where
  /-- The fixed bits (the table's `match`). -/
  value : Word
  /-- The bits that are compared. -/
  mask : Word
  /-- The instruction a matching word stands for. -/
  build : Word → Instr

/-- R64: `w AND mask = match`. -/
def OpcodeRow.hits (r : OpcodeRow) (w : Word) : Bool := w &&& r.mask == r.value

/-- The opcode map of R64, in its order. -/
def opcodeRows : List OpcodeRow :=
  [ ⟨0x00E0, 0xFFFF, fun _ => .cls⟩,
    ⟨0x00EE, 0xFFFF, fun _ => .ret⟩,
    ⟨0x1000, 0xF000, fun w => .jp (fieldNNN w)⟩,
    ⟨0x2000, 0xF000, fun w => .call (fieldNNN w)⟩,
    ⟨0x3000, 0xF000, fun w => .seImm (fieldX w) (fieldNN w)⟩,
    ⟨0x4000, 0xF000, fun w => .sneImm (fieldX w) (fieldNN w)⟩,
    ⟨0x6000, 0xF000, fun w => .ldImm (fieldX w) (fieldNN w)⟩,
    ⟨0x7000, 0xF000, fun w => .addImm (fieldX w) (fieldNN w)⟩,
    ⟨0x8000, 0xF00F, fun w => .ldReg (fieldX w) (fieldY w)⟩,
    ⟨0x8002, 0xF00F, fun w => .andReg (fieldX w) (fieldY w)⟩,
    ⟨0x8004, 0xF00F, fun w => .addReg (fieldX w) (fieldY w)⟩,
    ⟨0x8005, 0xF00F, fun w => .subReg (fieldX w) (fieldY w)⟩,
    ⟨0xA000, 0xF000, fun w => .ldI (fieldNNN w)⟩,
    ⟨0xC000, 0xF000, fun w => .rnd (fieldX w) (fieldNN w)⟩,
    ⟨0xD000, 0xF000, fun w => .drw (fieldX w) (fieldY w) (fieldN w)⟩,
    ⟨0xE09E, 0xF0FF, fun w => .skp (fieldX w)⟩,
    ⟨0xE0A1, 0xF0FF, fun w => .sknp (fieldX w)⟩,
    ⟨0xF007, 0xF0FF, fun w => .ldVxDT (fieldX w)⟩,
    ⟨0xF015, 0xF0FF, fun w => .ldDTVx (fieldX w)⟩,
    ⟨0xF018, 0xF0FF, fun w => .ldSTVx (fieldX w)⟩,
    ⟨0xF01E, 0xF0FF, fun w => .addI (fieldX w)⟩,
    ⟨0xF029, 0xF0FF, fun w => .ldF (fieldX w)⟩,
    ⟨0xF033, 0xF0FF, fun w => .ldB (fieldX w)⟩,
    ⟨0xF065, 0xF0FF, fun w => .ldRegs (fieldX w)⟩ ]

/-- R83: a pure function of the word: the instruction of the row it matches, or the verdict unimplemented (`none`).
DESIGN CHOICE of the spec (D10, log entry 12): every fixed nibble is compared. -/
def decodeWord (w : Word) : Option Instr := (opcodeRows.find? (·.hits w)).map (·.build w)

/-- Why a byte sequence is no instruction. -/
inductive DecodeError where
  /-- Fewer than the two bytes every instruction has (R60). -/
  | truncated
  /-- The word matches no row of R64 (R66). -/
  | notImplemented (w : Word)
  deriving DecidableEq, Repr

/-- Decode the instruction at the front of a byte sequence and give the bytes after it (R46, R60). -/
def decode : List Byte → Except DecodeError (Instr × List Byte)
  | hi :: lo :: rest =>
    match decodeWord (wordOfBytes hi lo) with
    | some i => .ok (i, rest)
    | none => .error (.notImplemented (wordOfBytes hi lo))
  | _ => .error .truncated

/-! ## The encoder, from the `encoding` strings of opcode_table.json and the formats of R62 -/

/-- A register index as the 4-bit field that selects it. -/
def nibble (r : Reg) : BitVec 4 := BitVec.ofFin (w := 4) r

/-- Format `NNN`: op, nnn. -/
def formatNNN (op : BitVec 4) (nnn : BitVec 12) : Word := op ++ nnn

/-- Format `XNN`: op, x, nn. -/
def formatXNN (op : BitVec 4) (x : Reg) (nn : Byte) : Word := op ++ nibble x ++ nn

/-- Formats `XY` and `XYN`: op, x, y, and the minor opcode or n. -/
def formatXYN (op : BitVec 4) (x y : Reg) (n : BitVec 4) : Word := op ++ nibble x ++ nibble y ++ n

/-- The word of an instruction: its pattern with the fields substituted (R69). -/
def encodeWord : Instr → Word
  | .cls => 0x00E0
  | .ret => 0x00EE
  | .jp nnn => formatNNN 0x1 nnn
  | .call nnn => formatNNN 0x2 nnn
  | .seImm x nn => formatXNN 0x3 x nn
  | .sneImm x nn => formatXNN 0x4 x nn
  | .ldImm x nn => formatXNN 0x6 x nn
  | .addImm x nn => formatXNN 0x7 x nn
  | .ldReg x y => formatXYN 0x8 x y 0x0
  | .andReg x y => formatXYN 0x8 x y 0x2
  | .addReg x y => formatXYN 0x8 x y 0x4
  | .subReg x y => formatXYN 0x8 x y 0x5
  | .ldI nnn => formatNNN 0xA nnn
  | .rnd x nn => formatXNN 0xC x nn
  | .drw x y n => formatXYN 0xD x y n
  | .skp x => formatXNN 0xE x 0x9E
  | .sknp x => formatXNN 0xE x 0xA1
  | .ldVxDT x => formatXNN 0xF x 0x07
  | .ldDTVx x => formatXNN 0xF x 0x15
  | .ldSTVx x => formatXNN 0xF x 0x18
  | .addI x => formatXNN 0xF x 0x1E
  | .ldF x => formatXNN 0xF x 0x29
  | .ldB x => formatXNN 0xF x 0x33
  | .ldRegs x => formatXNN 0xF x 0x65

/-- The two bytes of an instruction as they are stored: high byte at the lower address (R60). -/
def encode (i : Instr) : List Byte := [hiByte (encodeWord i), loByte (encodeWord i)]

/-- The opcode word whose bits are `w`, numbered as opcode_table.json numbers them, with the bits from `nbits` up zero.
Every row of the table is one 16-bit word, so nothing above bit 15 belongs to the instruction. -/
def tableWord (nbits w : Nat) : Word := BitVec.ofNat 16 (w % 2 ^ nbits)

/-- The instruction the decoder reads from the stored bytes of the table word `w` (high byte first, R46). -/
def decodeTableWord (nbits w : Nat) : Option Instr :=
  match decode [hiByte (tableWord nbits w), loByte (tableWord nbits w)] with
  | .ok (i, _) => some i
  | .error _ => none

end Sys2Proof
end

