-- ==== Sys2Proof/Config.lean ====
section
/-! DEFINITION. What one machine fixes (00_scope.md rule R5) and the free values of the model: opaque constants without
a body, so that no proof can see their values. -/

namespace Sys2Proof

/-- `FX33_VARIANT` and `FX65_VARIANT` (R5, R126): the effect the opcode table states, or a stop with `Unmodelled`. -/
inductive Variant where
  | intended
  | refuse
  deriving DecidableEq, Repr

/-- `ALIAS_ORDER` (R5, R118): how 8xy4 and 8xy5 act when x or y is 0xF. -/
inductive AliasOrder where
  | latched
  | sequential
  deriving DecidableEq, Repr

/-- The parameters of R5 that the source does not fix. They are configuration, "fixed for the life of the machine"
(R27); the machine carries them in its state unchanged, so a claim about all states is a claim about every choice of
them (log entry 1, DESIGN CHOICE). -/
structure Config where
  /-- `FB_W`: framebuffer columns. -/
  fbW : Nat
  /-- `FB_H`: framebuffer rows. -/
  fbH : Nat
  /-- `FONT[0..79]`: the 80 glyph bytes. -/
  font : Vector Byte 80
  /-- `SCALE`: passed through on the render signal, never interpreted by the core. DESIGN CHOICE: the spec says only "a
  caller-chosen scale factor" and gives no type or range; the model takes a natural number (log entry 4). -/
  scale : Nat
  /-- `FX33_VARIANT`. -/
  fx33 : Variant
  /-- `FX65_VARIANT`. -/
  fx65 : Variant
  /-- `ALIAS_ORDER`. -/
  aliasOrder : AliasOrder
  deriving DecidableEq, Repr

/-- The "caller-chosen scale factor" (R5, R34): the spec gives no default, so it is a free value; that it is a natural
number is the model's DESIGN CHOICE (log entry 4). -/
opaque Config.callerScale : Nat

/-- The byte on `rnd[7:0]` during the n-th step (R33): a draw under no law (log entry 17). -/
opaque Config.rndByte : Nat → Byte

/-- What the input collaborator has left in latch slot `k` for the n-th step (R20, R145): a draw (log entry 16). -/
opaque Config.keySlot : Nat → Nat → Bool

/-! The state after `MemRange` and `FbRange` is unspecified (R151): each of the values below, drawn for the step that
faulted, is free (log entry 10). -/

/-- V register `r` after an unspecified fault in step `n`. -/
opaque Config.unspecV : Nat → Nat → Byte

/-- I after an unspecified fault in step `n`. -/
opaque Config.unspecI : Nat → Word

/-- PC after an unspecified fault in step `n`. -/
opaque Config.unspecPC : Nat → Word

/-- SP after an unspecified fault in step `n`. -/
opaque Config.unspecSP : Nat → Word

/-- Stack entry `k` after an unspecified fault in step `n`. -/
opaque Config.unspecStk : Nat → Nat → Word

/-- DT after an unspecified fault in step `n`. -/
opaque Config.unspecDT : Nat → Byte

/-- ST after an unspecified fault in step `n`. -/
opaque Config.unspecST : Nat → Byte

/-- Memory byte `a` after an unspecified fault in step `n`. -/
opaque Config.unspecMem : Nat → Nat → Byte

/-- Whether framebuffer index `p` is on after an unspecified fault in step `n` (a pixel is on or off, R19). -/
opaque Config.unspecPixel : Nat → Nat → Bool

end Sys2Proof
end

