-- ==== Sys2Proof/Machine/Defaults.lean ====
section
/-! DEFINITION. The default configuration of 00_scope.md rule R5 and the contents of memory at machine creation
(10_state.md rule R37, 20_memory.md rules R42 to R44). -/

namespace Sys2Proof.Machine

/-- `FONT_BASE` (R5, R43). -/
abbrev fontBase : Nat := 0x050

/-- `FONT_LEN`: 16 glyphs of 5 bytes; the region is 0x050 to 0x09F (R43, conflict C1). -/
abbrev fontLen : Nat := 80

/-- `GLYPH_BYTES` (R5). -/
abbrev glyphBytes : Nat := 5

/-- `PROG_BASE` (R5). -/
abbrev progBase : Nat := 0x200

/-- `MEM_SIZE` (R5): a memory address is valid when it is below this, that is at most 0xFFF (R41). -/
abbrev memSize : Nat := 4096

/-- `PROG_MAX`: 4096 - 0x200 (R5). -/
abbrev progMax : Nat := 3584

/-- `STACK_DEPTH` (R5). -/
abbrev stackDepth : Nat := 24

/-- `PIX_OFF` (R5). -/
abbrev pixOff : Byte := 0x00

/-- `PIX_ON` (R5). -/
abbrev pixOn : Byte := 0xFF

/-- The default `FONT` of R44, PRESUMED (general knowledge, D3, log entry 3): one glyph a line, digits 0 to F. -/
def defaultFont : Vector Byte 80 :=
  #v[0xF0, 0x90, 0x90, 0x90, 0xF0,
     0x20, 0x60, 0x20, 0x20, 0x70,
     0xF0, 0x10, 0xF0, 0x80, 0xF0,
     0xF0, 0x10, 0xF0, 0x10, 0xF0,
     0x90, 0x90, 0xF0, 0x10, 0x10,
     0xF0, 0x80, 0xF0, 0x10, 0xF0,
     0xF0, 0x80, 0xF0, 0x90, 0xF0,
     0xF0, 0x10, 0x20, 0x40, 0x40,
     0xF0, 0x90, 0xF0, 0x90, 0xF0,
     0xF0, 0x90, 0xF0, 0x10, 0xF0,
     0xF0, 0x90, 0xF0, 0x90, 0x90,
     0xE0, 0x90, 0xE0, 0x90, 0xE0,
     0xF0, 0x80, 0x80, 0x80, 0xF0,
     0xE0, 0x90, 0x90, 0x90, 0xE0,
     0xF0, 0x80, 0xF0, 0x80, 0xF0,
     0xF0, 0x80, 0xF0, 0x80, 0x80]

/-- The configuration of `State.reset`: the defaults of R5. The 64 by 32 size is PRESUMED (D1, log entry 2), the font
PRESUMED (D3, log entry 3), SCALE a free value (log entry 4), the alias order and the variants the spec's decisions
D13 and D18 (log entries 13 and 14). -/
def defaultConfig : Config where
  fbW := 64
  fbH := 32
  font := defaultFont
  scale := Config.callerScale
  fx33 := .intended
  fx65 := .intended
  aliasOrder := .latched

/-- `FONT[k]` (R5, R44). -/
def fontByte (cfg : Config) (k : Nat) : Byte := cfg.font.getD k 0x00

/-- What memory holds at machine creation, and so what an address that `mem` does not list reads as: the font at 0x050
to 0x09F (R43, R44), 0x00 elsewhere (R37; DESIGN CHOICE, the spec's D5, log entry 5). -/
def initialByte (cfg : Config) (a : Nat) : Byte :=
  if fontBase ≤ a ∧ a < fontBase + fontLen then fontByte cfg (a - fontBase) else 0x00

/-- What a framebuffer index that `fb` does not list reads as: off (R37; DESIGN CHOICE, the spec's D5, log entry 5). -/
def initialPixel (_ : Nat) : Byte := pixOff

end Sys2Proof.Machine
end

