-- ==== Sys2Proof/Machine/State.lean ====
section
/-! DEFINITION. The state of the machine (10_state.md), its reset value (R37), and how a step can stop. -/

namespace Sys2Proof.Machine

/-- The two states of the machine (R21, R80). -/
inductive RunState where
  | stopped
  | running
  deriving DecidableEq, Repr

/-- The fault causes of R152, which FAULT records (R23). -/
inductive Cause where
  /-- 0: no fault since reset. -/
  | none
  /-- 1: the fetched word matches no row of the opcode map (R150). -/
  | notImplemented
  /-- 2: a fetch with `PC > 0xFFE` (R46). -/
  | fetchRange
  /-- 3: a data address above 0xFFF in Dxyn, Fx33 or Fx65 (R41). -/
  | memRange
  /-- 4: 2nnn with 24 entries in use (R102). -/
  | stackOverflow
  /-- 5: 00EE with none in use (R100). -/
  | stackUnderflow
  /-- 6: a pixel of Dxyn outside the framebuffer (R131). -/
  | fbRange
  /-- 7: Ex9E or ExA1 with `V[x] > 15` (R145). -/
  | keyRange
  /-- 8: Fx33 or Fx65 under the REFUSE variant (R126). -/
  | unmodelled
  /-- 9: a ROM of more than 3584 bytes: a refusal at load time, never raised by a step (R152). -/
  | romTooLarge
  deriving DecidableEq, Repr

/-- Why the machine has no next state at all. -/
inductive Fault where
  /-- Raised by `State.push` and `State.pop`, so by 2nnn and 00EE, when SP is above 24: the stack entry they would
  use does not exist. R14 and R24: only 0 to 24 are reachable. Safe: no run from reset meets it (log entry 20). -/
  | stackEntryAbsent
  deriving DecidableEq, Repr

/-- Why a move has no meaning in the model. -/
inductive Refusal where
  /-- Raised by an arm of `exec` for an instruction without a meaning yet. Safe. No arm uses it now. -/
  | notModelled (mnemonic : String)
  /-- Raised by `State.romLoad` for a ROM of more than 3584 bytes (R45, cause 9 of R152). Safe (log entry 22). -/
  | romTooLarge (len : Nat)
  /-- Raised by `State.romLoad` for a load while running, after a start, or a second load: "the model has no such
  move" (R45). Safe (log entry 22). -/
  | loadOutsideBoot
  /-- Raised by `State.start` after `MemRange` or `FbRange`: "the model has no such move" (R157). Safe (log
  entry 23). -/
  | restartAfterUnspecified
  deriving DecidableEq, Repr

/-- Bytes by address, in one canonical form: see `Memory.wf` in Machine/Ops.lean. Used for MEM and for FB. -/
abbrev Memory := List Host.Cell

/-- Everything the spec gives the machine (10_state.md R10 to R37), the inputs it reads, and two fields of the model's
own (`loadOpen`, `ticks`). -/
structure State where
  /-- The parameters (R5, R27): never changed (log entry 1). -/
  cfg : Config
  /-- V0 to VF (R10); VF is entry 15 (R11). -/
  v : Vector Byte 16
  /-- The address register I (R12). -/
  i : Word
  /-- The program counter (R13). -/
  pc : Word
  /-- The number of call-stack entries in use (R14). -/
  sp : Word
  /-- The call stack (R15). -/
  stk : Vector Word 24
  /-- The delay timer (R16). -/
  dt : Byte
  /-- The sound timer (R17). -/
  st : Byte
  /-- MEM: the bytes that differ from `initialByte` (R18, R40). -/
  mem : Memory
  /-- FB by linear index `py*FB_W + px` (R19, D2): the pixels that are not off. -/
  fb : Memory
  /-- RUN (R21). -/
  run : RunState
  /-- STOP_REQ (R22). -/
  stopReq : Bool
  /-- FAULT, shown on `fault_cause` (R23, R35). -/
  fault : Cause
  /-- The input latch: slot k is true when KEY[k] is 1, pressed (R20, R32). -/
  key : Vector Bool 16
  /-- The input `rnd[7:0]` (R33). -/
  rnd : Byte
  /-- The output `render`: high when the last step emitted the render signal (R34, R87). -/
  render : Bool
  /-- The model's own: the one ROM load may still happen (R45, log entry 22). -/
  loadOpen : Bool
  /-- The model's own: steps so far, the index of the free values (log entry 25). -/
  ticks : Nat
  deriving DecidableEq, Repr

/-- The machine right after creation: the table of R37. Values the source does not give are the spec's decisions D5,
D6 and D7 (DESIGN CHOICE; log entries 5, 6, 7); `rnd` is a free value (log entry 17). -/
def State.reset : State where
  cfg := defaultConfig
  v := Vector.replicate 16 0x00
  i := 0x0000
  pc := 0x0200
  sp := 0
  stk := Vector.replicate 24 0x0000
  dt := 0x00
  st := 0x00
  mem := []
  fb := []
  run := .stopped
  stopReq := false
  fault := .none
  key := Vector.replicate 16 false
  rnd := Config.rndByte 0
  render := false
  loadOpen := true
  ticks := 0

end Sys2Proof.Machine
end

