-- ==== Sys2Proof/Machine/Ops.lean ====
section
/-! DEFINITION. The named operations over memory, framebuffer, registers, stack and latch (10_state.md, 20_memory.md),
and taking a fault (60_exceptions.md rule R151). -/

namespace Sys2Proof.Machine

/-- The answer of a meaning or a move. -/
abbrev Answer := Host.Outcome State Fault Refusal

/-! ## A store of bytes in canonical form. `d` says what an unlisted address reads as. -/

/-- The byte at address `a`. -/
def Memory.read (d : Nat → Byte) : Memory → Nat → Byte
  | [], a => d a
  | (k, b) :: m, a => if a = k then b else Memory.read d m a

/-- Write `v` at address `a`, keeping the addresses rising and listing nothing equal to what it reads as unlisted. -/
def Memory.write (d : Nat → Byte) : Memory → Nat → Byte → Memory
  | [], a, v => if v = d a then [] else [(a, v)]
  | (k, b) :: m, a, v =>
    if a < k then (if v = d a then (k, b) :: m else (a, v) :: (k, b) :: m)
    else if a = k then (if v = d a then m else (a, v) :: m)
    else (k, b) :: Memory.write d m a v

/-- Write a list of bytes at ascending addresses from `a` (R45). -/
def Memory.writeBytes (d : Nat → Byte) : Memory → Nat → List Byte → Memory
  | m, _, [] => m
  | m, a, b :: bs => Memory.writeBytes d (Memory.write d m a b) (a + 1) bs

/-- The store of size `n` that holds `f a` at every address `a`. -/
def Memory.ofFn (d : Nat → Byte) (n : Nat) (f : Nat → Byte) : Memory :=
  (List.range n).filterMap (fun a => if f a = d a then none else some (a, f a))

/-- The canonical form of a store of size `n`: addresses strictly rising and below `n`, no entry equal to what an
unlisted address reads as. -/
abbrev Memory.wf (d : Nat → Byte) (n : Nat) (m : Memory) : Prop :=
  m.Pairwise (fun c e => c.1 < e.1) ∧ ∀ c ∈ m, c.1 < n ∧ c.2 ≠ d c.1

/-! ## Registers (R10 to R13) -/

/-- `V[x]`. -/
def State.getV (s : State) (x : Reg) : Byte := s.v[x]

/-- `V[x] <- b`. -/
def State.setV (s : State) (x : Reg) (b : Byte) : State := { s with v := s.v.set x b }

/-- `I <- w`. -/
def State.setI (s : State) (w : Word) : State := { s with i := w }

/-- `PC <- w`. -/
def State.setPC (s : State) (w : Word) : State := { s with pc := w }

/-- `DT <- b`. -/
def State.setDT (s : State) (b : Byte) : State := { s with dt := b }

/-- `ST <- b`. -/
def State.setST (s : State) (b : Byte) : State := { s with st := b }

/-- The index of VF (R11). -/
abbrev regF : Reg := 15

/-- The sequential advance `PC <- PC + 2`, modulo 2^16 (R13, R84). -/
def State.advance (s : State) : State := s.setPC (s.pc + 2)

/-- A skip: `PC <- PC + 4` when the condition holds, else `PC <- PC + 2` (R84, R91). -/
def State.skipIf (s : State) (taken : Bool) : State := s.setPC (if taken then s.pc + 4 else s.pc + 2)

/-! ## Memory (R7, R41) -/

/-- The byte `MEM[a]`. -/
def State.byteAt (s : State) (a : Nat) : Byte := s.mem.read (initialByte s.cfg) a

/-- `MEM[a] <- b`. -/
def State.setByte (s : State) (a : Nat) (b : Byte) : State :=
  { s with mem := s.mem.write (initialByte s.cfg) a b }

/-- `MemRead(a, 1)`: raises `MemRange` above 0xFFF (R7, R41; DESIGN CHOICE, the spec's D9, log entry 9). -/
def State.memRead (s : State) (a : Nat) : Except Cause Byte :=
  if a < memSize then .ok (s.byteAt a) else .error .memRange

/-- `MemWrite(a, 1, b)`: raises `MemRange` above 0xFFF (R7, R41; D9, log entry 9). -/
def State.memWrite (s : State) (a : Nat) (b : Byte) : Except Cause State :=
  if a < memSize then .ok (s.setByte a b) else .error .memRange

/-- `Fetch16(PC)`: raises `FetchRange` when `PC > 0xFFE`, else the two bytes at PC, high byte first (R46). -/
def State.fetch16 (s : State) : Except Cause Word :=
  if s.pc.toNat > 0xFFE then .error .fetchRange
  else .ok (wordOfBytes (s.byteAt s.pc.toNat) (s.byteAt (s.pc.toNat + 1)))

/-! ## Framebuffer (R19) -/

/-- The linear index of pixel `(px, py)` (R19; the spec's D2, log entry 27). -/
def State.fbIndex (s : State) (px py : Nat) : Nat := py * s.cfg.fbW + px

/-- `FB[px, py]`. -/
def State.pixel (s : State) (px py : Nat) : Byte := s.fb.read initialPixel (s.fbIndex px py)

/-- `FB[px, py] <- b`. -/
def State.setPixel (s : State) (px py : Nat) (b : Byte) : State :=
  { s with fb := s.fb.write initialPixel (s.fbIndex px py) b }

/-- Every pixel off (R130). -/
def State.clearFB (s : State) : State := { s with fb := [] }

/-! ## The fault mechanism (R88, R151) -/

/-- The causes after which the state is unspecified; every other cause is precise (R151, R152). -/
def Cause.unspecified : Cause → Bool
  | .memRange => true
  | .fbRange => true
  | .none => false
  | .notImplemented => false
  | .fetchRange => false
  | .stackOverflow => false
  | .stackUnderflow => false
  | .keyRange => false
  | .unmodelled => false
  | .romTooLarge => false

/-- The cause code on `fault_cause` (R35, R152). -/
def Cause.code : Cause → BitVec 4
  | .none => 0
  | .notImplemented => 1
  | .fetchRange => 2
  | .memRange => 3
  | .stackOverflow => 4
  | .stackUnderflow => 5
  | .fbRange => 6
  | .keyRange => 7
  | .unmodelled => 8
  | .romTooLarge => 9

/-- The state after `MemRange` or `FbRange` is unspecified (R151): every register, memory byte and pixel, the timers
and the stack are free values of this step (log entry 10). Configuration, inputs and controls are no part of it. -/
def State.unspecify (s : State) : State :=
  { s with
    v := Vector.ofFn (fun r => Config.unspecV s.ticks r.val)
    i := Config.unspecI s.ticks
    pc := Config.unspecPC s.ticks
    sp := Config.unspecSP s.ticks
    stk := Vector.ofFn (fun k => Config.unspecStk s.ticks k.val)
    dt := Config.unspecDT s.ticks
    st := Config.unspecST s.ticks
    mem := Memory.ofFn (initialByte s.cfg) memSize (Config.unspecMem s.ticks)
    fb := Memory.ofFn initialPixel (s.cfg.fbW * s.cfg.fbH)
      (fun p => if Config.unspecPixel s.ticks p then pixOn else pixOff) }

/-- The state a fault leaves: `RUN <- STOPPED`, `FAULT <- cause`, and everything else as before the step for a precise
cause or unspecified for the other two (R151). -/
def State.faulted (c : Cause) (s : State) : State :=
  { (if c.unspecified then s.unspecify else s) with run := .stopped, fault := c }

/-- `raise <Cause>`: taking a fault, one operation for every cause. There is no handler, no vector, nothing is saved and
no way back but `start` (R151, R156, R157). The `info` arguments are diagnostics and are stored nowhere (log
entry 11). -/
def State.raise (c : Cause) (s : State) : Answer := .next (s.faulted c)

/-- The end of an execute phase that may have met a fault on its way. -/
def State.settle (s : State) : Except Cause State → Answer
  | .ok t => .next t
  | .error c => s.raise c

/-! ## Call stack (R14, R15) -/

/-- Push the call site: `STK[SP] <- w; SP <- SP + 1`, or `StackOverflow` when SP is 24 (R102). With SP above 24, which
no run reaches (R14), the entry does not exist (log entry 20). -/
def State.push (s : State) (w : Word) (k : State → State) : Answer :=
  if h : s.sp.toNat < 24 then
    .next (k { s with stk := s.stk.set s.sp.toNat w, sp := s.sp + 1 })
  else if s.sp.toNat = stackDepth then s.raise .stackOverflow
  else .fault .stackEntryAbsent

/-- Pop: `SP <- SP - 1` and read `STK[SP]`, or `StackUnderflow` when SP is 0 (R100). The entry itself stays as it was.
With SP above 24, which no run reaches (R14), the entry does not exist (log entry 20). -/
def State.pop (s : State) (k : Word → State → State) : Answer :=
  if s.sp.toNat = 0 then s.raise .stackUnderflow
  else if h : s.sp.toNat - 1 < 24 then
    .next (k (s.stk[s.sp.toNat - 1]) { s with sp := s.sp - 1 })
  else .fault .stackEntryAbsent

/-! ## Input latch (R20, R145) -/

/-- `KEY[k]`, or `KeyRange` when `k > 15` (R145; DESIGN CHOICE, the spec's D15, log entry 16). -/
def State.readKey (s : State) (k : Nat) : Except Cause Bool :=
  if h : k < 16 then .ok s.key[k] else .error .keyRange

end Sys2Proof.Machine
end

