-- ==== Sys2Proof/Machine/Operands.lean ====
section
/-! DEFINITION. The operand forms: effective addresses through I (43_index_and_memory.md rule R125), immediates widened
to 16 bits (R63), and the sprite's geometry (44_framebuffer.md rule R132). -/

namespace Sys2Proof.Machine

/-- The one addressing mode: I plus an ascending offset, in unbounded integers (R41, R125). -/
def State.eaI (s : State) (k : Nat) : Nat := s.i.toNat + k

/-- `zext_16(nnn)` (R63). -/
def addr16 (nnn : BitVec 12) : Word := nnn.setWidth 16

/-- `zext_16(b)` of a register byte (R121). -/
def byte16 (b : Byte) : Word := b.setWidth 16

/-- `0x050 + 5 * v`, the whole byte unmasked (R122; the spec's D16, log entry 21). -/
def glyphAddr (v : Byte) : Word := BitVec.ofNat 16 (fontBase + glyphBytes * v.toNat)

/-- The hundreds digit (R123). -/
def digitHundreds (v : Byte) : Byte := BitVec.ofNat 8 (v.toNat / 100)

/-- The tens digit (R123). -/
def digitTens (v : Byte) : Byte := BitVec.ofNat 8 (v.toNat / 10 % 10)

/-- The units digit (R123). -/
def digitUnits (v : Byte) : Byte := BitVec.ofNat 8 (v.toNat % 10)

/-- Column `c` of a sprite row is bit `7 - c` of its byte (R132; PRESUMED, the spec's D14, log entry 15). -/
def spriteBit (b : Byte) (c : Nat) : Bool := b.getLsbD (7 - c)

/-- The pixel a sprite bit writes: 1 writes 0xFF, 0 writes 0x00 (R131, R133). -/
def spritePixel (bit : Bool) : Byte := if bit then pixOn else pixOff

/-- The columns of a sprite row, left to right (R132). -/
def spriteCols : List Nat := [0, 1, 2, 3, 4, 5, 6, 7]

end Sys2Proof.Machine
end

