-- ==== Sys2Proof/Machine/Flags.lean ====
section
/-! DEFINITION. The three flag computations (10_state.md rule R11) and the arithmetic they belong to (R117). -/

namespace Sys2Proof.Machine

/-- The byte a flag write stores (R11). -/
def flagByte (b : Bool) : Byte := if b then 0x01 else 0x00

/-- Carry of `a + b`: 1 exactly when the mathematical sum is 256 or more (R114, R117). -/
def carryFlag (a b : Byte) : Byte := flagByte (decide (a.toNat + b.toNat ≥ 256))

/-- Not-borrow of `a - b`: 0 exactly when `a < b` (R115, R117). -/
def notBorrowFlag (a b : Byte) : Byte := flagByte (!decide (a.toNat < b.toNat))

/-- `(a + b) mod 256` (R117). -/
def addByte (a b : Byte) : Byte := a + b

/-- `(a - b) mod 256` (R117). -/
def subByte (a b : Byte) : Byte := a - b

/-- A draw's collision: an on pixel is written off (R131). -/
def collides (old new : Byte) : Bool := decide (old = pixOn) && decide (new = pixOff)

/-- VF after one pixel of a draw: set to 1 on a collision, otherwise not written (R11, R131). -/
def State.noteCollision (s : State) (old new : Byte) : State :=
  if collides old new then s.setV regF (flagByte true) else s

/-- The shape 8xy4 and 8xy5 share: VF is written, then V[x]. LATCHED takes both operands before any write; SEQUENTIAL
computes the result from the registers as they stand after VF is written (R118, D13, log entry 13). -/
def State.flagThenResult (s : State) (x y : Reg) (flag op : Byte → Byte → Byte) : State :=
  let a := s.getV x
  let b := s.getV y
  let f := s.setV regF (flag a b)
  match s.cfg.aliasOrder with
  | .latched => f.setV x (op a b)
  | .sequential => f.setV x (op (f.getV x) (f.getV y))

end Sys2Proof.Machine
end

