-- ==== Sys2Proof/Machine/Alu.lean ====
section
/-! DEFINITION. 42_register_alu.md: 6xnn, 7xnn, 8xy0, 8xy2, 8xy4, 8xy5, Cxnn, the execute phase (S3) of each. -/

namespace Sys2Proof.Machine

/-- `6xnn` (R110). -/
def execLdImm (x : Reg) (nn : Byte) (s : State) : Answer := .next (s.setV x nn).advance

/-- `7xnn` (R111): wraps modulo 256, writes no flag. -/
def execAddImm (x : Reg) (nn : Byte) (s : State) : Answer := .next (s.setV x (addByte (s.getV x) nn)).advance

/-- `8xy0` (R112). -/
def execLdReg (x y : Reg) (s : State) : Answer := .next (s.setV x (s.getV y)).advance

/-- `8xy2` (R113): writes no flag. -/
def execAndReg (x y : Reg) (s : State) : Answer := .next (s.setV x (s.getV x &&& s.getV y)).advance

/-- `8xy4` (R114): VF is the carry, then V[x] the sum. -/
def execAddReg (x y : Reg) (s : State) : Answer := .next (s.flagThenResult x y carryFlag addByte).advance

/-- `8xy5` (R115): VF is not-borrow, then V[x] the difference. -/
def execSubReg (x y : Reg) (s : State) : Answer := .next (s.flagThenResult x y notBorrowFlag subByte).advance

/-- `Cxnn` (R116): the byte on the input `rnd`, ANDed with `nn`. -/
def execRnd (x : Reg) (nn : Byte) (s : State) : Answer := .next (s.setV x (s.rnd &&& nn)).advance

end Sys2Proof.Machine
end

