-- ==== Sys2Proof/Machine/Control.lean ====
section
/-! DEFINITION. 41_control_transfer.md: 00EE, 1nnn, 2nnn, 3xnn, 4xnn, the execute phase (S3) of each. -/

namespace Sys2Proof.Machine

/-- `00EE` (R100): pop the call site and go two bytes past it, modulo 2^16. -/
def execRet (s : State) : Answer := s.pop (fun site t => t.setPC (site + 2))

/-- `1nnn` (R101): `PC <- nnn`; any target is accepted. -/
def execJp (nnn : BitVec 12) (s : State) : Answer := .next (s.setPC (addr16 nnn))

/-- `2nnn` (R102): push the address of this instruction and go to `nnn`. -/
def execCall (nnn : BitVec 12) (s : State) : Answer := s.push s.pc (fun t => t.setPC (addr16 nnn))

/-- `3xnn` (R103). -/
def execSeImm (x : Reg) (nn : Byte) (s : State) : Answer := .next (s.skipIf (s.getV x == nn))

/-- `4xnn` (R104). -/
def execSneImm (x : Reg) (nn : Byte) (s : State) : Answer := .next (s.skipIf (s.getV x != nn))

end Sys2Proof.Machine
end

