-- ==== Sys2Proof/Machine/Index.lean ====
section
/-! DEFINITION. 43_index_and_memory.md: Annn, Fx1E, Fx29, Fx33, Fx65, the execute phase (S3) of each. -/

namespace Sys2Proof.Machine

/-- `Annn` (R120). -/
def execLdI (nnn : BitVec 12) (s : State) : Answer := .next (s.setI (addr16 nnn)).advance

/-- `Fx1E` (R121): wraps modulo 2^16, writes no flag (the spec's D17, log entry 21). -/
def execAddI (x : Reg) (s : State) : Answer := .next (s.setI (s.i + byte16 (s.getV x))).advance

/-- `Fx29` (R122): from the constant font base; no memory is read. -/
def execLdF (x : Reg) (s : State) : Answer := .next (s.setI (glyphAddr (s.getV x))).advance

/-- The three stores of `Fx33`, in its order: hundreds at I, tens at I+1, units at I+2 (R123). -/
def State.storeDigits (s : State) (v : Byte) : Except Cause State :=
  match s.memWrite (s.eaI 0) (digitHundreds v) with
  | .error c => .error c
  | .ok s1 =>
    match s1.memWrite (s.eaI 1) (digitTens v) with
    | .error c => .error c
    | .ok s2 => s2.memWrite (s.eaI 2) (digitUnits v)

/-- `Fx33` (R123, R126): with INTENDED the three stores, with REFUSE the fault `Unmodelled`. -/
def execLdB (x : Reg) (s : State) : Answer :=
  match s.cfg.fx33 with
  | .refuse => s.raise .unmodelled
  | .intended => s.settle ((s.storeDigits (s.getV x)).map State.advance)

/-- The loop of `Fx65`: `count` registers from `V[k]` on, I advanced by one, modulo 2^16, after each byte (R124). -/
def State.fillRegs : Nat → Nat → State → Except Cause State
  | 0, _, s => .ok s
  | count + 1, k, s =>
    match s.memRead (s.eaI 0) with
    | .error c => .error c
    | .ok b => State.fillRegs count (k + 1) ((s.setV (Fin.ofNat 16 k) b).setI (s.i + 1))

/-- `Fx65` (R124, R126): with INTENDED `V[0]` to `V[x]` from I, with REFUSE the fault `Unmodelled`. -/
def execLdRegs (x : Reg) (s : State) : Answer :=
  match s.cfg.fx65 with
  | .refuse => s.raise .unmodelled
  | .intended => s.settle ((State.fillRegs (x.val + 1) 0 s).map State.advance)

end Sys2Proof.Machine
end

