-- ==== Sys2Proof/Machine/InputTimer.lean ====
section
/-! DEFINITION. 45_input_and_timers.md: Ex9E, ExA1, Fx07, Fx15, Fx18, the execute phase (S3) of each. The countdown of
the timers is phase S4, in Machine/Cycle.lean. -/

namespace Sys2Proof.Machine

/-- `Ex9E` (R140): skip if the slot `V[x]` is 1. -/
def execSkp (x : Reg) (s : State) : Answer :=
  s.settle ((s.readKey (s.getV x).toNat).map s.skipIf)

/-- `ExA1` (R141): skip if the slot `V[x]` is 0. -/
def execSknp (x : Reg) (s : State) : Answer :=
  s.settle ((s.readKey (s.getV x).toNat).map (fun pressed => s.skipIf !pressed))

/-- `Fx07` (R142): the value before this step's tick. -/
def execLdVxDT (x : Reg) (s : State) : Answer := .next (s.setV x s.dt).advance

/-- `Fx15` (R143). -/
def execLdDTVx (x : Reg) (s : State) : Answer := .next (s.setDT (s.getV x)).advance

/-- `Fx18` (R144). -/
def execLdSTVx (x : Reg) (s : State) : Answer := .next (s.setST (s.getV x)).advance

end Sys2Proof.Machine
end

