-- ==== Sys2Proof/Machine/Video.lean ====
section
/-! DEFINITION. 44_framebuffer.md: 00E0 and Dxyn, the execute phase (S3) of each. The render signal is phase S5, in
Machine/Cycle.lean. -/

namespace Sys2Proof.Machine

/-- `00E0` (R130): every pixel off. -/
def execCls (s : State) : Answer := .next s.clearFB.advance

/-- One pixel of a draw: `FbRange` outside the framebuffer, else VF is noted and the pixel overwritten (R131, R133;
the bounds check is the spec's D9, log entry 9). -/
def State.drawPixel (s : State) (px py : Nat) (new : Byte) : Except Cause State :=
  if px ≥ s.cfg.fbW ∨ py ≥ s.cfg.fbH then .error .fbRange
  else .ok ((s.noteCollision (s.pixel px py) new).setPixel px py new)

/-- The columns of one sprite row, from byte `b` (R131). -/
def State.drawCols (b : Byte) (x0 py : Nat) : List Nat → State → Except Cause State
  | [], s => .ok s
  | c :: cs, s =>
    match s.drawPixel (x0 + c) py (spritePixel (spriteBit b c)) with
    | .error e => .error e
    | .ok t => State.drawCols b x0 py cs t

/-- `count` sprite rows from row `row` on: the byte at I + row first, then its eight pixels (R131, R155). -/
def State.drawRows (x0 y0 : Nat) : Nat → Nat → State → Except Cause State
  | 0, _, s => .ok s
  | count + 1, row, s =>
    match s.memRead (s.eaI row) with
    | .error e => .error e
    | .ok b =>
      match State.drawCols b x0 (y0 + row) spriteCols s with
      | .error e => .error e
      | .ok t => State.drawRows x0 y0 count (row + 1) t

/-- `Dxyn` (R131): `V[x]` and `V[y]` are read once, before the loops (the spec's D14, log entry 15). -/
def execDrw (x y : Reg) (n : BitVec 4) (s : State) : Answer :=
  s.settle ((State.drawRows (s.getV x).toNat (s.getV y).toNat n.toNat 0 s).map State.advance)

end Sys2Proof.Machine
end

