-- ==== Sys2Proof/Machine/Cycle.lean ====
section
/-! DEFINITION. 40_step_cycle.md: the loop (R81) and the phases of a step around the execute phase (R82), and the
change of the inputs between steps. -/

namespace Sys2Proof.Machine

/-- One timer's tick: 1 less when above 0 (R85). -/
def tickDown (b : Byte) : Byte := if b = 0 then 0 else b - 1

/-- Phase S4 (R85): both timers tick. -/
def State.tickTimers (s : State) : State := { s with dt := tickDown s.dt, st := tickDown s.st }

/-- The instructions whose step emits the render signal: decided by the instruction, not by comparing pixels
(R87, conflict C2; the spec's D11, log entry 18). -/
def signalsRender : Instr → Bool
  | .cls => true
  | .drw _ _ _ => true
  | .ret => false
  | .jp _ => false
  | .call _ => false
  | .seImm _ _ => false
  | .sneImm _ _ => false
  | .ldImm _ _ => false
  | .addImm _ _ => false
  | .ldReg _ _ => false
  | .andReg _ _ => false
  | .addReg _ _ => false
  | .subReg _ _ => false
  | .ldI _ => false
  | .rnd _ _ => false
  | .skp _ => false
  | .sknp _ => false
  | .ldVxDT _ => false
  | .ldDTVx _ => false
  | .ldSTVx _ => false
  | .addI _ => false
  | .ldF _ => false
  | .ldB _ => false
  | .ldRegs _ => false

/-- The render line is a pulse: low unless this step raises it (R34, log entry 18). -/
def State.lowerRender (s : State) : State := { s with render := false }

/-- Phases S4 and S5 after the execute phase of `i`; a step that raised a fault, and so is STOPPED, skips both
(R82, R87, R88). -/
def State.afterExec (i : Instr) (t : State) : State :=
  match t.run with
  | .stopped => t
  | .running => { t.tickTimers with render := signalsRender i }

/-- The wait for the next tick: the inputs may have changed, to free values; the core's own state has not (R20, R33,
R171, R198; log entries 16, 17, 25). -/
def State.awaitTick (s : State) : State :=
  { s with
    ticks := s.ticks + 1
    key := Vector.ofFn (fun k => Config.keySlot (s.ticks + 1) k.val)
    rnd := Config.rndByte (s.ticks + 1) }

/-- Phases S1 to S5 of one step, with `ex` as the execute phase (R82). -/
def State.phases (ex : Instr → State → Answer) (s : State) : Answer :=
  match s.fetch16 with
  | .error c => s.raise c
  | .ok w =>
    match decodeWord w with
    | none => s.raise .notImplemented
    | some i =>
      match ex i s with
      | .next t => .next (t.afterExec i)
      | .fault r => .fault r
      | .refused r => .refused r

/-- One iteration of the loop, without the wait: STOPPED does nothing (R171); a stop request seen at the top stops the
loop without a step; otherwise one step (R80, R81). -/
def State.iteration (ex : Instr → State → Answer) (s : State) : Answer :=
  match s.run with
  | .stopped => .next s
  | .running => if s.stopReq then .next { s with run := .stopped } else s.phases ex

/-- One tick of the machine (R36, R81, R90): the render line falls, one iteration, the wait. -/
def State.tick (ex : Instr → State → Answer) (s : State) : Answer :=
  match s.lowerRender.iteration ex with
  | .next t => .next t.awaitTick
  | .fault r => .fault r
  | .refused r => .refused r

end Sys2Proof.Machine
end

