-- ==== Sys2Proof/Machine/Lifecycle.lean ====
section
/-! DEFINITION. The host's and the collaborator's moves (10_state.md rules R30 to R34, 20_memory.md rule R45), and how a
table word is placed to be the next instruction. -/

namespace Sys2Proof.Machine

/-- `start` (R31, R80, R183): `RUN <- RUNNING`, `STOP_REQ <- 0`, nothing else of the machine's; the ROM may no longer be
loaded (R45). After `MemRange` or `FbRange` there is no such move (R157; the spec's D27, log entry 23). -/
def State.start (s : State) : Answer :=
  if s.fault.unspecified then .refused .restartAfterUnspecified
  else .next { s with run := .running, stopReq := false, loadOpen := false }

/-- `stop` (R31, R80): `STOP_REQ <- 1`, nothing else. -/
def State.stop (s : State) : State := { s with stopReq := true }

/-- `rom_load(bytes)` (R30, R45): the bytes verbatim from 0x200 on, nothing else; once, before the first start; more than
3584 bytes are refused (the spec's D21, log entry 22). -/
def State.romLoad (bytes : List Byte) (s : State) : Answer :=
  if s.run = .running ∨ s.loadOpen = false then .refused .loadOutsideBoot
  else if bytes.length > progMax then .refused (.romTooLarge bytes.length)
  else .next { s with
    mem := s.mem.writeBytes (initialByte s.cfg) progBase bytes
    loadOpen := false }

/-- The input collaborator writes slot `k` of the latch (R20, R32). -/
def State.writeKey (s : State) (k : Fin 16) (pressed : Bool) : State := { s with key := s.key.set k pressed }

/-- What the render signal carries (R34): the framebuffer as one linear row-major array (R19), its size and SCALE. -/
structure RenderView where
  pixels : List Byte
  width : Nat
  height : Nat
  scale : Nat
  deriving DecidableEq, Repr

/-- The read view of the framebuffer (R19, R34). -/
def State.renderView (s : State) : RenderView where
  pixels := (List.range (s.cfg.fbW * s.cfg.fbH)).map (s.fb.read initialPixel)
  width := s.cfg.fbW
  height := s.cfg.fbH
  scale := s.cfg.scale

/-- `fault_cause` (R35). -/
def State.faultCause (s : State) : BitVec 4 := s.fault.code

/-- The machine with the word `w` placed at PC, high byte first, and started: what a load and a `start` do for one
instruction (log entry 8). A PC that no fetch can use is first set to 0x200. -/
def State.placeWord (s : State) (w : Word) : State :=
  let s1 := if s.pc.toNat > 0xFFE then s.setPC 0x0200 else s
  let s2 := (s1.setByte s1.pc.toNat (hiByte w)).setByte (s1.pc.toNat + 1) (loByte w)
  { s2 with run := .running, stopReq := false }

end Sys2Proof.Machine
end

