-- ==== Sys2Proof/Machine/Step.lean ====
section
/-! DEFINITION. The machine's step (one tick, 40_step_cycle.md rules R81 and R82) and the placing of a table word. Both
only call Machine/Cycle.lean and Machine/Lifecycle.lean. -/

namespace Sys2Proof.Machine

/-- One tick: one iteration of the loop with `exec` as the execute phase. -/
def step (s : State) : Host.Outcome State Fault Refusal := s.tick exec

/-- `s` with the table word `w` stored where `step` fetches its next instruction, and running (log entry 8). -/
def State.withFetchWord (s : State) (nbits w : Nat) : State := s.placeWord (tableWord nbits w)

end Sys2Proof.Machine
end

