-- ==== Sys2Proof/Safety.lean ====
section
/-! DEFINITION. The terms claims are made in: the invariants of the machine, what each instruction may write, where the
program counter goes, and which faults an instruction can raise. Written from the rules' prose and tables (R10, R11, R24,
R84, R153), not from the meanings. -/

namespace Sys2Proof.Machine

/-! ## Invariants -/

/-- The last fault left the state unspecified (R151): no claim about the registers, memory or pixels can hold. These are
two of the faults only; a run that has gone wrong in the sense of R186 (b), by whichever fault, is
`State.runWentWrong`. -/
def State.wentWrong (s : State) : Bool := s.fault.unspecified

/-- MEM is in canonical form and holds no address above 0xFFF (R40). -/
abbrev State.memInv (s : State) : Prop := Memory.wf (initialByte s.cfg) memSize s.mem

/-- FB is in canonical form, holds no pixel outside FB_W by FB_H, and "no other value is ever stored" than 0x00 and 0xFF
(R19): a listed pixel is on. -/
abbrev State.fbInv (s : State) : Prop :=
  Memory.wf initialPixel (s.cfg.fbW * s.cfg.fbH) s.fb ∧ ∀ c ∈ s.fb, c.2 = pixOn

/-- After an unspecified fault the machine is STOPPED (R151), and otherwise SP is 0 to 24 (R14). -/
abbrev State.stackInv (s : State) : Prop :=
  (s.wentWrong = true → s.run = .stopped) ∧ (s.wentWrong = false → s.sp.toNat ≤ stackDepth)

/-- The invariant of the machine. -/
abbrev State.Inv (s : State) : Prop := s.memInv ∧ s.fbInv ∧ s.stackInv

/-- R91: "the largest value an addition can produce is 0x1002"; every call site on the stack was fetched from, so it is at
most 0xFFE. Unless an unspecified fault has stopped the machine. -/
abbrev State.pcInv (s : State) : Prop :=
  (s.wentWrong = true → s.run = .stopped) ∧
  (s.wentWrong = false → s.pc.toNat ≤ 0x1002 ∧ ∀ k : Fin 24, s.stk[k].toNat ≤ 0xFFE)

/-! ## Instruction families, by the section file that gives the instruction -/

/-- The five instruction files of the spec. -/
inductive Family where
  /-- 41_control_transfer.md. -/
  | control
  /-- 42_register_alu.md. -/
  | alu
  /-- 43_index_and_memory.md. -/
  | index
  /-- 44_framebuffer.md. -/
  | video
  /-- 45_input_and_timers.md. -/
  | inputTimer
  deriving DecidableEq, Repr

/-- The family of an instruction (INDEX.md, "instructions covered"). -/
def family : Instr → Family
  | .cls => .video
  | .ret => .control
  | .jp _ => .control
  | .call _ => .control
  | .seImm _ _ => .control
  | .sneImm _ _ => .control
  | .ldImm _ _ => .alu
  | .addImm _ _ => .alu
  | .ldReg _ _ => .alu
  | .andReg _ _ => .alu
  | .addReg _ _ => .alu
  | .subReg _ _ => .alu
  | .ldI _ => .index
  | .rnd _ _ => .alu
  | .drw _ _ _ => .video
  | .skp _ => .inputTimer
  | .sknp _ => .inputTimer
  | .ldVxDT _ => .inputTimer
  | .ldDTVx _ => .inputTimer
  | .ldSTVx _ => .inputTimer
  | .addI _ => .index
  | .ldF _ => .index
  | .ldB _ => .index
  | .ldRegs _ => .index

/-! ## Frames: what an instruction may write -/

/-- What an execute phase may write beside PC: each test is true for what may change. -/
structure Footprint where
  /-- V registers (R10, R11). -/
  v : Reg → Bool
  /-- I (R12). -/
  i : Bool
  /-- SP (R14). -/
  sp : Bool
  /-- Stack entries (R15). -/
  stk : Nat → Bool
  /-- DT (R16). -/
  dt : Bool
  /-- ST (R17). -/
  st : Bool
  /-- Memory addresses (R40). -/
  mem : Nat → Bool
  /-- Pixels by column and row (R19). -/
  fb : Nat → Nat → Bool

/-- The footprint of an instruction that writes only PC. -/
def Footprint.pcOnly : Footprint where
  v := fun _ => false
  i := false
  sp := false
  stk := fun _ => false
  dt := false
  st := false
  mem := fun _ => false
  fb := fun _ _ => false

/-- Only `V[x]` (and PC). -/
def Footprint.regOnly (x : Reg) : Footprint := { Footprint.pcOnly with v := fun r => r == x }

/-- `V[x]` and VF (and PC). -/
def Footprint.regAndFlag (x : Reg) : Footprint := { Footprint.pcOnly with v := fun r => r == x || r == 15 }

/-- What each instruction may write, in state `s`: the "written by" columns of R24 and the write list of R10; Dxyn may
write VF (R11) and its 8-pixel-wide box (R131, R133); Fx33 the three bytes from I (R123). -/
def footprint (i : Instr) (s : State) : Footprint :=
  match i with
  | .cls => { Footprint.pcOnly with fb := fun _ _ => true }
  | .ret => { Footprint.pcOnly with sp := true }
  | .jp _ => Footprint.pcOnly
  | .call _ => { Footprint.pcOnly with sp := true, stk := fun k => k == s.sp.toNat }
  | .seImm _ _ => Footprint.pcOnly
  | .sneImm _ _ => Footprint.pcOnly
  | .ldImm x _ => Footprint.regOnly x
  | .addImm x _ => Footprint.regOnly x
  | .ldReg x _ => Footprint.regOnly x
  | .andReg x _ => Footprint.regOnly x
  | .addReg x _ => Footprint.regAndFlag x
  | .subReg x _ => Footprint.regAndFlag x
  | .ldI _ => { Footprint.pcOnly with i := true }
  | .rnd x _ => Footprint.regOnly x
  | .drw x y n =>
    { Footprint.pcOnly with
      v := fun r => r == 15
      fb := fun px py =>
        decide ((s.getV x).toNat ≤ px ∧ px < (s.getV x).toNat + 8 ∧
          (s.getV y).toNat ≤ py ∧ py < (s.getV y).toNat + n.toNat) }
  | .skp _ => Footprint.pcOnly
  | .sknp _ => Footprint.pcOnly
  | .ldVxDT x => Footprint.regOnly x
  | .ldDTVx _ => { Footprint.pcOnly with dt := true }
  | .ldSTVx _ => { Footprint.pcOnly with st := true }
  | .addI _ => { Footprint.pcOnly with i := true }
  | .ldF _ => { Footprint.pcOnly with i := true }
  | .ldB _ => { Footprint.pcOnly with mem := fun a => decide (s.eaI 0 ≤ a ∧ a ≤ s.eaI 2) }
  | .ldRegs x => { Footprint.pcOnly with v := fun r => decide (r.val ≤ x.val), i := true }

/-- From `s` to `t` nothing changed but PC and what `f` allows. -/
def Footprint.Keeps (f : Footprint) (s t : State) : Prop :=
  (∀ r : Reg, f.v r = false → t.getV r = s.getV r) ∧
  (f.i = false → t.i = s.i) ∧
  (f.sp = false → t.sp = s.sp) ∧
  (∀ k : Fin 24, f.stk k.val = false → t.stk[k] = s.stk[k]) ∧
  (f.dt = false → t.dt = s.dt) ∧
  (f.st = false → t.st = s.st) ∧
  (∀ a : Nat, f.mem a = false → t.byteAt a = s.byteAt a) ∧
  (∀ px py : Nat, px < s.cfg.fbW → py < s.cfg.fbH → f.fb px py = false → t.pixel px py = s.pixel px py) ∧
  t.cfg = s.cfg ∧ t.run = s.run ∧ t.stopReq = s.stopReq ∧ t.fault = s.fault ∧ t.key = s.key ∧ t.rnd = s.rnd ∧
  t.render = s.render ∧ t.loadOpen = s.loadOpen ∧ t.ticks = s.ticks

/-! ## Program counter and faults -/

/-- Skip or not (R84, R91): 4 past or 2 past, modulo 2^16. -/
def pcSkip (taken : Bool) (pc : Word) : Word := BitVec.ofNat 16 ((pc.toNat + if taken then 4 else 2) % 65536)

/-- The new PC of an instruction that raises no fault: the table of R84. -/
def nextPC (i : Instr) (s : State) : Word :=
  match i with
  | .jp nnn => BitVec.ofNat 16 nnn.toNat
  | .call nnn => BitVec.ofNat 16 nnn.toNat
  | .ret => BitVec.ofNat 16 (((s.stk.getD (s.sp.toNat - 1) 0).toNat + 2) % 65536)
  | .seImm x nn => pcSkip (decide (s.getV x = nn)) s.pc
  | .sneImm x nn => pcSkip (decide (s.getV x ≠ nn)) s.pc
  | .skp x => pcSkip (s.key.getD (s.getV x).toNat false) s.pc
  | .sknp x => pcSkip (!s.key.getD (s.getV x).toNat false) s.pc
  | .cls => pcSkip false s.pc
  | .ldImm _ _ => pcSkip false s.pc
  | .addImm _ _ => pcSkip false s.pc
  | .ldReg _ _ => pcSkip false s.pc
  | .andReg _ _ => pcSkip false s.pc
  | .addReg _ _ => pcSkip false s.pc
  | .subReg _ _ => pcSkip false s.pc
  | .ldI _ => pcSkip false s.pc
  | .rnd _ _ => pcSkip false s.pc
  | .drw _ _ _ => pcSkip false s.pc
  | .ldVxDT _ => pcSkip false s.pc
  | .ldDTVx _ => pcSkip false s.pc
  | .ldSTVx _ => pcSkip false s.pc
  | .addI _ => pcSkip false s.pc
  | .ldF _ => pcSkip false s.pc
  | .ldB _ => pcSkip false s.pc
  | .ldRegs _ => pcSkip false s.pc

/-- The causes an execute phase can raise (R153). -/
def mayRaise (i : Instr) : List Cause :=
  match i with
  | .ret => [.stackUnderflow]
  | .call _ => [.stackOverflow]
  | .drw _ _ _ => [.memRange, .fbRange]
  | .skp _ => [.keyRange]
  | .sknp _ => [.keyRange]
  | .ldB _ => [.memRange, .unmodelled]
  | .ldRegs _ => [.memRange, .unmodelled]
  | .cls => []
  | .jp _ => []
  | .seImm _ _ => []
  | .sneImm _ _ => []
  | .ldImm _ _ => []
  | .addImm _ _ => []
  | .ldReg _ _ => []
  | .andReg _ _ => []
  | .addReg _ _ => []
  | .subReg _ _ => []
  | .ldI _ => []
  | .rnd _ _ => []
  | .ldVxDT _ => []
  | .ldDTVx _ => []
  | .ldSTVx _ => []
  | .addI _ => []
  | .ldF _ => []

/-- The instruction the next step runs, if the bytes at PC are one. -/
def State.nextInstr (s : State) : Option Instr :=
  if s.pc.toNat > 0xFFE then none
  else match decode [s.byteAt s.pc.toNat, s.byteAt (s.pc.toNat + 1)] with
    | .ok (i, _) => some i
    | .error _ => none

/-- The next tick executes `i`: the machine runs, no stop is requested, and the bytes at PC decode to `i`. -/
abbrev State.about (s : State) (i : Instr) : Prop :=
  s.run = .running ∧ s.stopReq = false ∧ s.nextInstr = some i

/-- `t` is `s` after a tick but for the inputs, the step count and the render line: nothing of the machine's own state
differs. -/
def State.sameMachine (s t : State) : Prop :=
  t = { s with key := t.key, rnd := t.rnd, ticks := t.ticks, render := t.render }

/-! ## Runs and their end (R186; the spec's decision D26, log entry 31) -/

/-- `t` is reached from `s` without leaving RUNNING: by ticks, and between them the host's `stop` and the
collaborator's writes to the latch. A tick from a state that is STOPPED belongs to no run. -/
inductive RunFrom (s : State) : State → Prop where
  /-- Nothing has happened yet. -/
  | here : RunFrom s s
  /-- One tick while RUNNING: a step, or the loop top that obeys a stop request. -/
  | tick {t u : State} (before : RunFrom s t) (running : t.run = .running) (next : step t = .next u) : RunFrom s u
  /-- The host's `stop` between two ticks. -/
  | stop {t : State} (before : RunFrom s t) (running : t.run = .running) : RunFrom s t.stop
  /-- The collaborator's write between two ticks. -/
  | writeKey {t : State} (before : RunFrom s t) (running : t.run = .running) (k : Fin 16) (b : Bool) :
      RunFrom s (t.writeKey k b)

/-- The state a run of the program `bytes` begins in: reset, `rom_load`, `start` (R181, R186). -/
def bootState (bytes : List Byte) : Answer :=
  match State.romLoad bytes State.reset with
  | .next loaded => loaded.start
  | .fault r => .fault r
  | .refused r => .refused r

/-- `t` is a state of a run of the program `bytes`. -/
def InRun (bytes : List Byte) (t : State) : Prop := ∃ s : State, bootState bytes = .next s ∧ RunFrom s t

/-- What "the program has finished" means in a claim: each claim names one of these and its address (R186, D26). -/
inductive Finish where
  /-- The machine is at `addr`, whose word is a jump to itself (R186 (c)). -/
  | selfJump (addr : BitVec 12)
  /-- The machine has stopped with `NotImplemented` on the word at `addr` (the exception of R186 (b)). -/
  | notImplemented (addr : BitVec 12)
  deriving DecidableEq, Repr

/-- The program has finished, in the sense `f` names. -/
abbrev State.finished (s : State) (f : Finish) : Prop :=
  match f with
  | .selfJump addr => s.run = .running ∧ s.pc = addr16 addr ∧ s.nextInstr = some (.jp addr)
  | .notImplemented addr => s.run = .stopped ∧ s.fault = .notImplemented ∧ s.pc = addr16 addr

/-- How a run has ended. The third way, never to end, is no end: see `Finish.selfJump`. -/
inductive RunEnd where
  /-- By a stop request (R186 (a)). -/
  | stopRequest
  /-- By a fault (R186 (b)). -/
  | fault (cause : Cause)
  deriving DecidableEq, Repr

/-- How the run that has led from `start` after reset to this state has ended, if it has (R186): FAULT is NONE at reset
and only a fault writes it (R23), so a STOPPED machine without a fault was stopped by request. -/
def State.runEnd (s : State) : Option RunEnd :=
  match s.run with
  | .running => none
  | .stopped => if s.fault = .none then some .stopRequest else some (.fault s.fault)

/-- The run has gone wrong (R186 (b)): it ended by a fault, whichever it is. `allowed` is the one exception a claim may
choose: the `NotImplemented` stop at a named address, `none` for a claim that allows no fault. -/
def State.runWentWrong (s : State) (allowed : Option (BitVec 12)) : Bool :=
  match s.runEnd, allowed with
  | none, _ => false
  | some .stopRequest, _ => false
  | some (.fault _), none => true
  | some (.fault _), some addr => !decide (s.finished (.notImplemented addr))

/-! ## Sprites (R131, R132) -/

/-- A draw of `n` rows stays inside memory and the framebuffer (R131). -/
abbrev drawInRange (s : State) (x y : Reg) (n : BitVec 4) : Prop :=
  n.toNat = 0 ∨ (s.eaI (n.toNat - 1) ≤ 0xFFF ∧ (s.getV x).toNat + 7 < s.cfg.fbW ∧
    (s.getV y).toNat + n.toNat - 1 < s.cfg.fbH)

/-- Pixel `(px, py)` lies in the box of the sprite drawn at `(V[x], V[y])`. -/
abbrev inBox (s : State) (x y : Reg) (n : BitVec 4) (px py : Nat) : Prop :=
  (s.getV x).toNat ≤ px ∧ px < (s.getV x).toNat + 8 ∧ (s.getV y).toNat ≤ py ∧ py < (s.getV y).toNat + n.toNat

/-- The sprite's bit for framebuffer position `(px, py)`: bit `7 - column` of the row's byte (R132, D14). -/
def spriteAt (s : State) (x y : Reg) (px py : Nat) : Bool :=
  (s.byteAt (s.i.toNat + (py - (s.getV y).toNat))).getLsbD (7 - (px - (s.getV x).toNat))

end Sys2Proof.Machine
end

