-- ==== Sys2Proof/Certificates/Slice0/Obligations.lean ====
section
/-! DEFINITION. The statements for the provers. Each docstring names the rule or the decision of the spec it formalises;
a decision D<n> is the spec's own choice (92_eei_decisions.md), and the log entry that carries it is named beside it. -/

open Sys2Proof Sys2Proof.Machine

/-! ## Reset -/

/-- 10_state.md section 10. The zero values, the PC and the STOPPED state are the spec's decisions D5, D6, D7, D23 (log
entries 5, 6, 7), the model's choice and not the source's. -/
def Obligations.ResetHoldsTheTable : Prop :=
  (∀ r : Reg, State.reset.getV r = 0x00) ∧ State.reset.i = 0x0000 ∧ State.reset.pc = 0x0200 ∧
  State.reset.sp = 0 ∧ (∀ k : Fin 24, State.reset.stk[k] = 0x0000) ∧ State.reset.dt = 0x00 ∧ State.reset.st = 0x00 ∧
  (∀ k : Fin 80, State.reset.byteAt (0x050 + k.val) = State.reset.cfg.font[k]) ∧
  (∀ a : Nat, a < 0x050 ∨ 0x0A0 ≤ a → State.reset.byteAt a = 0x00) ∧
  (∀ px py : Nat, State.reset.pixel px py = 0x00) ∧ (∀ k : Fin 16, State.reset.key[k] = false) ∧
  State.reset.run = .stopped ∧ State.reset.stopReq = false ∧ State.reset.fault = .none

/-- The machine's invariants hold after reset (10_state.md sections 5, 7 and 10, 20_memory.md section 1). This rests on the
reset values the spec chooses, the zeros, PC 0x200 and STOPPED, and on SP as a count of entries: its decisions D5, D6, D7, D8
(log entries 5, 6, 7, 20). -/
def Obligations.ResetMeetsInv : Prop := State.reset.Inv ∧ State.reset.pcInv

/-! ## Encoding -/

/-- Every instruction, with every operand, survives encoding and decoding, whatever bytes follow it. -/
def Obligations.DecodeOfEncode : Prop :=
  ∀ (i : Instr) (rest : List Byte), i.wellFormed = true → decode (encode i ++ rest) = .ok (i, rest)

/-- A word that decodes is the encoding of what it decodes to: no two words stand for one instruction. That no word outside
an encoding decodes is the full masks, the spec's decision D10 (log entry 12). -/
def Obligations.EncodeOfDecode : Prop :=
  ∀ (w : Word) (i : Instr), decodeWord w = some i → encodeWord i = w

/-- 30_encoding.md section 3: "the rows do not overlap". -/
def Obligations.OpcodeRowsDoNotOverlap : Prop :=
  ∀ (w : Word) (r q : OpcodeRow), r ∈ opcodeRows → q ∈ opcodeRows → r.hits w = true → q.hits w = true →
    r.value = q.value ∧ r.mask = q.mask

/-- 30_encoding.md section 3, the map by high nibble, which groups the words differently from the row list: exactly these
words are unimplemented. Matching every fixed nibble is the spec's decision D10 (log entry 12). -/
def Obligations.UnimplementedWordsByGroup : Prop :=
  ∀ w : Word, decodeWord w = none ↔
    let op := w.toNat / 4096
    let low := w.toNat % 256
    let minor := w.toNat % 16
    (op = 0x0 ∧ w ≠ 0x00E0 ∧ w ≠ 0x00EE) ∨ op = 0x5 ∨ op = 0x9 ∨ op = 0xB ∨
    (op = 0x8 ∧ minor ≠ 0x0 ∧ minor ≠ 0x2 ∧ minor ≠ 0x4 ∧ minor ≠ 0x5) ∨
    (op = 0xE ∧ low ≠ 0x9E ∧ low ≠ 0xA1) ∨
    (op = 0xF ∧ low ≠ 0x07 ∧ low ≠ 0x15 ∧ low ≠ 0x18 ∧ low ≠ 0x1E ∧ low ≠ 0x29 ∧ low ≠ 0x33 ∧ low ≠ 0x65)

/-- Words read off the spec's encodings by hand: the examples of R69 (632A), of 95_test_vectors.md (DAB7, F165, 8FF4), and
one of each other family. -/
def Obligations.KnownWordsDecode : Prop :=
  decodeWord 0x632A = some (.ldImm 3 0x2A) ∧ decodeWord 0xDAB7 = some (.drw 10 11 7) ∧
  decodeWord 0xF165 = some (.ldRegs 1) ∧ decodeWord 0x8FF4 = some (.addReg 15 15) ∧
  decodeWord 0x220E = some (.call 0x20E) ∧ decodeWord 0xE59E = some (.skp 5) ∧ decodeWord 0x00E0 = some .cls ∧
  decodeWord 0xF315 = some (.ldDTVx 3) ∧ decodeWord 0x5AB0 = none ∧ decodeWord 0x0000 = none

/-! ## The step -/

/-- 20_memory.md section 3: two bytes at PC, high byte first; FetchRange above 0xFFE (the spec's decision D9, log
entry 9). That an odd PC is fetched from as it is is its decision D20 on conflict C4 (log entry 29). -/
def Obligations.FetchIsBigEndian : Prop :=
  ∀ s : State,
    (s.pc.toNat ≤ 0xFFE → ∃ w : Word, s.fetch16 = .ok w ∧
      w.toNat = (s.byteAt s.pc.toNat).toNat * 256 + (s.byteAt (s.pc.toNat + 1)).toNat) ∧
    (s.pc.toNat > 0xFFE → s.fetch16 = .error .fetchRange)

/-- When the bytes at PC decode to a well-formed instruction, the step is its execute phase on the state with the render
line low, then phases S4 and S5 (`afterExec`), then the wait for the next tick (`awaitTick`). That the render line falls when
a tick begins, and that the wait draws the inputs anew and counts the step, are the model's choices (log entries 16, 17, 18,
25). -/
def Obligations.StepRunsTheDecodedInstruction : Prop :=
  ∀ (s : State) (i : Instr), s.about i → i.wellFormed = true →
    step s =
      match exec i s.lowerRender with
      | .next t => .next (t.afterExec i).awaitTick
      | .fault r => .fault r
      | .refused r => .refused r

/-- 60_exceptions.md section 6: STOPPED does nothing and all state survives it; that the inputs, the step count and the render
line move is the model's choice (log entries 16, 17, 18, 25). -/
def Obligations.StoppedTickKeepsTheMachine : Prop :=
  ∀ s : State, s.run = .stopped → ∃ t : State, step s = .next t ∧ s.sameMachine t ∧ t.render = false

/-- 40_step_cycle.md section 1: a stop request seen at the top of the loop stops the machine with no other change and no step.
That STOP_REQ itself stays set is the spec's decision D7 (log entry 7). -/
def Obligations.StopRequestStopsAtLoopTop : Prop :=
  ∀ s : State, s.run = .running → s.stopReq = true →
    ∃ t : State, step s = .next t ∧ State.sameMachine { s with run := .stopped } t ∧ t.render = false

/-- 60_exceptions.md section 1: an unimplemented word stops the machine and changes nothing else: no timer tick, no render
signal. Which words these are is the spec's decision D10, that the timers do not move D12, the FAULT register D23 (log
entries 7, 12, 19). -/
def Obligations.UnimplementedWordStops : Prop :=
  ∀ s : State, s.run = .running → s.stopReq = false → s.pc.toNat ≤ 0xFFE → s.nextInstr = none →
    ∃ t : State, step s = .next t ∧
      State.sameMachine { s with run := .stopped, fault := .notImplemented } t ∧ t.render = false

/-- 20_memory.md section 3 and 60_exceptions.md section 1: a fetch above 0xFFE stops the machine with FetchRange and changes
nothing else (the spec's decision D9, log entry 9). -/
def Obligations.FetchRangeStops : Prop :=
  ∀ s : State, s.run = .running → s.stopReq = false → s.pc.toNat > 0xFFE →
    ∃ t : State, step s = .next t ∧
      State.sameMachine { s with run := .stopped, fault := .fetchRange } t ∧ t.render = false

/-- 40_step_cycle.md section 2: in a step that completes each timer loses one if above 0, after the execute phase; a timer
that the instruction loads loses one from the loaded value. In a step that ends in a precise fault neither moves (the
spec's decision D12, log entry 19). -/
def Obligations.TimersTickOncePerExecutedStep : Prop :=
  ∀ (s t : State) (i : Instr), s.about i → step s = .next t →
    (t.run = .running →
      t.dt.toNat = (match i with | .ldDTVx x => (s.getV x).toNat | _ => s.dt.toNat) - 1 ∧
      t.st.toNat = (match i with | .ldSTVx x => (s.getV x).toNat | _ => s.st.toNat) - 1) ∧
    (t.run = .stopped → t.wentWrong = false → t.dt = s.dt ∧ t.st = s.st)

/-- 40_step_cycle.md section 2: the render signal follows every 00E0 and Dxyn step that completes, and no other step. That
it is decided by the instruction alone is conflict C2 and the spec's decision D11 (log entry 18). -/
def Obligations.RenderSignalsExactlyDraws : Prop :=
  ∀ (s t : State) (i : Instr), s.about i → step s = .next t →
    (t.render = true ↔ t.run = .running ∧ (i = .cls ∨ ∃ x y n, i = .drw x y n))

/-- 40_step_cycle.md section 2, the table of R84: the new PC of every instruction, and PC unchanged where a precise fault is
raised. The faults are the spec's decision D9, SP as a count D8 (log entries 9, 20). -/
def Obligations.NextPCFollowsTheTable : Prop :=
  ∀ (i : Instr) (s t : State), s.run = .running → exec i s = .next t →
    (t.run = .running → t.pc = nextPC i s) ∧ (t.run = .stopped → t.wentWrong = false → t.pc = s.pc)

/-! ## Faults -/

/-- 60_exceptions.md section 1: an execute phase that stops the machine raises one of the causes listed for it, and a precise
one changes only RUN and FAULT. Causes 2 to 8 are the spec's decisions (D9, D15, D18; log entries 9, 10, 14, 16). -/
def Obligations.ExecFaultsAsListed : Prop :=
  ∀ (i : Instr) (s t : State), s.run = .running → exec i s = .next t → t.run = .stopped →
    t.fault ∈ mayRaise i ∧
    (t.wentWrong = false → t = { s with run := .stopped, fault := t.fault })

/-- 41_control_transfer.md and 45_input_and_timers.md: 2nnn with 24 entries in use, 00EE with none, and a key index above 15
stop the machine and change nothing else (the spec's decisions D8, D9 and D15; log entries 9, 16 and 20). -/
def Obligations.StackAndKeyLimitsTrap : Prop :=
  ∀ (s : State) (nnn : BitVec 12) (x : Reg),
    (s.sp = 24 → exec (.call nnn) s = .next { s with run := .stopped, fault := .stackOverflow }) ∧
    (s.sp = 0 → exec .ret s = .next { s with run := .stopped, fault := .stackUnderflow }) ∧
    ((s.getV x).toNat > 15 →
      exec (.skp x) s = .next { s with run := .stopped, fault := .keyRange } ∧
      exec (.sknp x) s = .next { s with run := .stopped, fault := .keyRange })

/-- 43_index_and_memory.md: Fx33 and Fx65 stop with MemRange when they reach above 0xFFF (the spec's decision D9, log entries
9 and 10), and with Unmodelled, nothing else changed, under REFUSE (D18, log entry 14). -/
def Obligations.IndexInstructionsTrap : Prop :=
  ∀ (s : State) (x : Reg),
    (s.cfg.fx33 = .intended → s.i.toNat ≥ 0xFFE →
      ∃ t : State, exec (.ldB x) s = .next t ∧ t.run = .stopped ∧ t.fault = .memRange) ∧
    (s.cfg.fx33 = .refuse → exec (.ldB x) s = .next { s with run := .stopped, fault := .unmodelled }) ∧
    (s.cfg.fx65 = .intended → s.i.toNat + x.val > 0xFFF →
      ∃ t : State, exec (.ldRegs x) s = .next t ∧ t.run = .stopped ∧ t.fault = .memRange) ∧
    (s.cfg.fx65 = .refuse → exec (.ldRegs x) s = .next { s with run := .stopped, fault := .unmodelled })

/-- 44_framebuffer.md and 60_exceptions.md section 2: a draw out of range stops the machine with the cause of the first row
that fails, MemRange before FbRange within a row. `memRow` and `fbRow` are the first rows whose byte, or one of whose
pixels, is out of range. The faults are the spec's decision D9 (log entries 9 and 10); that V[x] and V[y] are read once, which
matters when x or y is 0xF, is D14 (log entry 15); the order of the causes the spec derives (R155: "[derived: from
`40_step_cycle.md` rules R81 and R82]"). -/
def Obligations.DrawOutOfRangeTraps : Prop :=
  ∀ (s : State) (x y : Reg) (n : BitVec 4),
    let memRow := 0x1000 - s.i.toNat
    let fbRow := if (s.getV x).toNat + 7 ≥ s.cfg.fbW then 0 else s.cfg.fbH - (s.getV y).toNat
    (memRow < n.toNat ∧ memRow ≤ fbRow →
      ∃ t : State, exec (.drw x y n) s = .next t ∧ t.run = .stopped ∧ t.fault = .memRange) ∧
    (fbRow < n.toNat ∧ fbRow < memRow →
      ∃ t : State, exec (.drw x y n) s = .next t ∧ t.run = .stopped ∧ t.fault = .fbRange)

/-- R157: no start after MemRange or FbRange, and the machine then stays as it is (the spec's decision D27, log entry 23). -/
def Obligations.UnspecifiedFaultIsFinal : Prop :=
  ∀ s : State, s.wentWrong = true → s.run = .stopped →
    s.start = .refused .restartAfterUnspecified ∧
    ∃ t : State, step s = .next t ∧ t.wentWrong = true ∧ t.run = .stopped

/-! ## Control transfer -/

/-- R101. -/
def Obligations.JumpSetsPC : Prop :=
  ∀ (s : State) (nnn : BitVec 12), ∃ t : State, exec (.jp nnn) s = .next t ∧ t.pc.toNat = nnn.toNat ∧
    t = { s with pc := t.pc }

/-- 41_control_transfer.md Instructions (R102: `StackOverflow` only at SP = 24): 2nnn with fewer than 24 entries in use
completes; it pushes its own address, counts it and goes to nnn. SP as a count of entries is the spec's decision D8 (log
entry 20). -/
def Obligations.CallPushesItsAddress : Prop :=
  ∀ (s : State) (nnn : BitVec 12) (h : s.sp.toNat < 24), ∃ t : State, exec (.call nnn) s = .next t ∧
    t.pc.toNat = nnn.toNat ∧ t.sp.toNat = s.sp.toNat + 1 ∧ t.stk[s.sp.toNat] = s.pc ∧
    t = { s with pc := t.pc, sp := t.sp, stk := s.stk.set s.sp.toNat s.pc }

/-- 41_control_transfer.md Instructions (R100: `StackUnderflow` only at SP = 0): 00EE with 1 to 24 entries in use completes; it
goes two bytes past the last call site and leaves the entry as it was. SP as a count of entries is the spec's decision D8 (log entry 20). -/
def Obligations.ReturnGoesPastTheCallSite : Prop :=
  ∀ (s : State) (k : Nat) (h : k < 24), s.sp.toNat = k + 1 → ∃ t : State, exec .ret s = .next t ∧
    t.sp.toNat = k ∧ t.pc.toNat = (s.stk[k].toNat + 2) % 65536 ∧ t = { s with pc := t.pc, sp := t.sp }

/-- The source's property S5: after a call, a return with the stack as the call left it lands two bytes past the call site
with SP as it was before the call, whatever else has changed in between. -/
def Obligations.CallThenReturn : Prop :=
  ∀ (s t m : State) (nnn : BitVec 12), s.run = .running → exec (.call nnn) s = .next t → t.run = .running →
    m.sp = t.sp → m.stk = t.stk →
    ∃ u : State, exec .ret m = .next u ∧ u.sp = s.sp ∧ u.pc.toNat = (s.pc.toNat + 2) % 65536

/-- R103, R104: the skips on a register and an immediate; exactly one of the two skips. -/
def Obligations.ImmediateSkips : Prop :=
  ∀ (s : State) (x : Reg) (nn : Byte),
    (∃ t : State, exec (.seImm x nn) s = .next t ∧ t = { s with pc := t.pc } ∧
      t.pc.toNat = (s.pc.toNat + if s.getV x = nn then 4 else 2) % 65536) ∧
    (∃ t : State, exec (.sneImm x nn) s = .next t ∧ t = { s with pc := t.pc } ∧
      t.pc.toNat = (s.pc.toNat + if s.getV x ≠ nn then 4 else 2) % 65536)

/-! ## Registers and arithmetic -/

/-- R110, R112: loads of an immediate and of a register; only V[x] and PC change. -/
def Obligations.RegisterLoads : Prop :=
  ∀ (s : State) (x y : Reg) (nn : Byte),
    exec (.ldImm x nn) s = .next { s with v := s.v.set x nn, pc := s.pc + 2 } ∧
    exec (.ldReg x y) s = .next { s with v := s.v.set x s.v[y], pc := s.pc + 2 }

/-- R111: modulo 256, no flag: with x other than 0xF, VF keeps its value. -/
def Obligations.AddImmediateWraps : Prop :=
  ∀ (s : State) (x : Reg) (nn : Byte), ∃ t : State, exec (.addImm x nn) s = .next t ∧
    (t.getV x).toNat = ((s.getV x).toNat + nn.toNat) % 256 ∧ (∀ r : Reg, r ≠ x → t.getV r = s.getV r) ∧
    t = { s with v := t.v, pc := s.pc + 2 }

/-- R113: bit by bit; no flag. -/
def Obligations.AndIsBitwise : Prop :=
  ∀ (s : State) (x y : Reg), ∃ t : State, exec (.andReg x y) s = .next t ∧
    (∀ b : Nat, (t.getV x).getLsbD b = ((s.getV x).getLsbD b && (s.getV y).getLsbD b)) ∧
    (∀ r : Reg, r ≠ x → t.getV r = s.getV r) ∧ t = { s with v := t.v, pc := s.pc + 2 }

/-- 42_register_alu.md, 8xy4 with LATCHED operands: V[x] is the sum modulo 256; VF is the carry unless x is 0xF, when the
result lands in VF. The latched order is the spec's decision D13 (log entry 13). -/
def Obligations.AddWithCarryLatched : Prop :=
  ∀ (s : State) (x y : Reg), s.cfg.aliasOrder = .latched → ∃ t : State, exec (.addReg x y) s = .next t ∧
    (t.getV x).toNat = ((s.getV x).toNat + (s.getV y).toNat) % 256 ∧
    (x ≠ 15 → t.getV 15 = if (s.getV x).toNat + (s.getV y).toNat ≥ 256 then 0x01 else 0x00) ∧
    (∀ r : Reg, r ≠ x → r ≠ 15 → t.getV r = s.getV r) ∧ t = { s with v := t.v, pc := s.pc + 2 }

/-- 42_register_alu.md, 8xy5 with LATCHED operands: V[x] is the difference modulo 256; VF is 0 on a borrow and 1 otherwise
unless x is 0xF, when the result lands in VF. The latched order is the spec's decision D13 (log entry 13). -/
def Obligations.SubWithNotBorrowLatched : Prop :=
  ∀ (s : State) (x y : Reg), s.cfg.aliasOrder = .latched → ∃ t : State, exec (.subReg x y) s = .next t ∧
    (t.getV x).toNat =
      (if (s.getV x).toNat ≥ (s.getV y).toNat then (s.getV x).toNat - (s.getV y).toNat
       else (s.getV x).toNat + 256 - (s.getV y).toNat) ∧
    (x ≠ 15 → t.getV 15 = if (s.getV x).toNat < (s.getV y).toNat then 0x00 else 0x01) ∧
    (∀ r : Reg, r ≠ x → r ≠ 15 → t.getV r = s.getV r) ∧ t = { s with v := t.v, pc := s.pc + 2 }

/-- 42_register_alu.md family rules, SEQUENTIAL (the spec's parameter of decision D13, log entry 13): the flag is written
first and the result is computed from the registers as they then stand. -/
def Obligations.SequentialOrderRereads : Prop :=
  ∀ (s : State) (x y : Reg), s.cfg.aliasOrder = .sequential →
    let a := (s.getV x).toNat
    let b := (s.getV y).toNat
    let reread (flag : Nat) (r : Reg) := if r = 15 then flag else (s.getV r).toNat
    (∃ t : State, exec (.addReg x y) s = .next t ∧
      (let f := if a + b ≥ 256 then 1 else 0
       (t.getV x).toNat = (reread f x + reread f y) % 256 ∧ (x ≠ 15 → (t.getV 15).toNat = f)) ∧
      (∀ r : Reg, r ≠ x → r ≠ 15 → t.getV r = s.getV r) ∧ t = { s with v := t.v, pc := s.pc + 2 }) ∧
    (∃ t : State, exec (.subReg x y) s = .next t ∧
      (let f := if a < b then 0 else 1
       (t.getV x).toNat = (reread f x + 256 - reread f y) % 256 ∧ (x ≠ 15 → (t.getV 15).toNat = f)) ∧
      (∀ r : Reg, r ≠ x → r ≠ 15 → t.getV r = s.getV r) ∧ t = { s with v := t.v, pc := s.pc + 2 })

/-- 42_register_alu.md, Cxnn: the result is the random byte AND nn, and every byte is admitted (the spec's decision D19, log
entry 17): the byte is an input, the same for no two steps. -/
def Obligations.RandomIsMasked : Prop :=
  ∀ (s : State) (x : Reg) (nn r : Byte), ∃ t : State, exec (.rnd x nn) { s with rnd := r } = .next t ∧
    (∀ b : Nat, (t.getV x).getLsbD b = (r.getLsbD b && nn.getLsbD b)) ∧
    (∀ q : Reg, q ≠ x → t.getV q = s.getV q) ∧ t = { s with rnd := r, v := t.v, pc := s.pc + 2 }

/-! ## Address register and memory -/

/-- R120. -/
def Obligations.LoadIndexImmediate : Prop :=
  ∀ (s : State) (nnn : BitVec 12), ∃ t : State, exec (.ldI nnn) s = .next t ∧ t.i.toNat = nnn.toNat ∧
    t = { s with i := t.i, pc := s.pc + 2 }

/-- 43_index_and_memory.md: Fx1E wraps modulo 2^16 and writes no flag (the spec's decision D17); Fx29 is the font base plus
five times the whole byte (D16); log entry 21. -/
def Obligations.IndexArithmetic : Prop :=
  ∀ (s : State) (x : Reg),
    (∃ t : State, exec (.addI x) s = .next t ∧ t.i.toNat = (s.i.toNat + (s.getV x).toNat) % 65536 ∧
      t = { s with i := t.i, pc := s.pc + 2 }) ∧
    (∃ t : State, exec (.ldF x) s = .next t ∧ t.i.toNat = 0x050 + 5 * (s.getV x).toNat ∧
      t = { s with i := t.i, pc := s.pc + 2 })

/-- 43_index_and_memory.md, Fx33 INTENDED (the spec's decision D18, log entry 14): the three digits at I, I+1, I+2, every
other byte and all else unchanged. -/
def Obligations.StoreDigitsWritesThreeBytes : Prop :=
  ∀ (s : State) (x : Reg), s.memInv → s.cfg.fx33 = .intended → s.i.toNat ≤ 0xFFD →
    ∃ t : State, exec (.ldB x) s = .next t ∧
      (t.byteAt s.i.toNat).toNat = (s.getV x).toNat / 100 ∧
      (t.byteAt (s.i.toNat + 1)).toNat = (s.getV x).toNat / 10 % 10 ∧
      (t.byteAt (s.i.toNat + 2)).toNat = (s.getV x).toNat % 10 ∧
      (∀ a : Nat, a < s.i.toNat ∨ s.i.toNat + 2 < a → t.byteAt a = s.byteAt a) ∧
      t = { s with mem := t.mem, pc := s.pc + 2 }

/-- 43_index_and_memory.md, Fx65 INTENDED (the spec's decision D18, log entry 14): V[0] to V[x] from the bytes at I, I
advanced by x + 1, the other registers and all else unchanged. -/
def Obligations.LoadRegistersFromMemory : Prop :=
  ∀ (s : State) (x : Reg), s.cfg.fx65 = .intended → s.i.toNat + x.val ≤ 0xFFF →
    ∃ t : State, exec (.ldRegs x) s = .next t ∧
      (∀ r : Reg, r.val ≤ x.val → t.getV r = s.byteAt (s.i.toNat + r.val)) ∧
      (∀ r : Reg, x.val < r.val → t.getV r = s.getV r) ∧
      t.i.toNat = s.i.toNat + x.val + 1 ∧
      t = { s with v := t.v, i := t.i, pc := s.pc + 2 }

/-- 20_memory.md section 7: a store by Fx33 is seen by the very next fetch, at whichever PC it takes in one of the three bytes
at I, I+1, I+2: as its high byte, as its low byte, or as both. The spec derives it (R52: "[derived: from rule R40"); the
digits are those of the INTENDED variant, the spec's decision D18 (log entry 14). -/
def Obligations.StoreIsSeenByTheNextFetch : Prop :=
  ∀ (s t : State) (x : Reg) (pc : Word), s.memInv → s.run = .running → exec (.ldB x) s = .next t → t.run = .running →
    pc.toNat ≤ 0xFFE →
    let v := (s.getV x).toNat
    let digit (k : Nat) := if k = 0 then v / 100 else if k = 1 then v / 10 % 10 else v % 10
    ∃ w : Word, State.fetch16 { t with pc := pc } = .ok w ∧
      (s.i.toNat ≤ pc.toNat ∧ pc.toNat ≤ s.i.toNat + 2 → w.toNat / 256 = digit (pc.toNat - s.i.toNat)) ∧
      (s.i.toNat ≤ pc.toNat + 1 ∧ pc.toNat + 1 ≤ s.i.toNat + 2 → w.toNat % 256 = digit (pc.toNat + 1 - s.i.toNat))

/-! ## Framebuffer -/

/-- 44_framebuffer.md, 00E0: every pixel off, whatever was there; only FB and PC change; the step signals, even if nothing
changed (the spec's decision D11, log entry 18). -/
def Obligations.ClearScreen : Prop :=
  ∀ s : State, ∃ t : State, exec .cls s = .next t ∧ (∀ px py : Nat, t.pixel px py = 0x00) ∧
    t = { s with fb := t.fb, pc := s.pc + 2 } ∧ (s.run = .running → (t.afterExec .cls).render = true)

/-- 44_framebuffer.md, Dxyn in range: the 8-pixel-wide box ends up equal to the sprite's bits, every other pixel keeps its
value, and VF is 1 when some on pixel of the box is written off and otherwise keeps its value. The range is the spec's
decision D9, the bit order and the latched coordinates D14 (log entries 9 and 15). -/
def Obligations.DrawOverwritesTheBox : Prop :=
  ∀ (s : State) (x y : Reg) (n : BitVec 4), s.fbInv → drawInRange s x y n →
    ∃ t : State, exec (.drw x y n) s = .next t ∧
      (∀ px py : Nat, px < s.cfg.fbW → py < s.cfg.fbH →
        (inBox s x y n px py → t.pixel px py = if spriteAt s x y px py then 0xFF else 0x00) ∧
        (¬ inBox s x y n px py → t.pixel px py = s.pixel px py)) ∧
      ((∃ px py : Nat, inBox s x y n px py ∧ s.pixel px py = 0xFF ∧ spriteAt s x y px py = false) →
        t.getV 15 = 0x01) ∧
      ((¬ ∃ px py : Nat, inBox s x y n px py ∧ s.pixel px py = 0xFF ∧ spriteAt s x y px py = false) →
        t.getV 15 = s.getV 15) ∧
      (∀ r : Reg, r ≠ 15 → t.getV r = s.getV r) ∧
      t = { s with v := t.v, fb := t.fb, pc := s.pc + 2 }

/-- 44_framebuffer.md family rules: drawing the same sprite a second time at the same place changes no pixel and no register
(overwrite, not XOR; conflict C3). -/
def Obligations.RedrawChangesNothing : Prop :=
  ∀ (s t : State) (x y : Reg) (n : BitVec 4), s.fbInv → s.run = .running → exec (.drw x y n) s = .next t → t.run = .running →
    t.getV x = s.getV x → t.getV y = s.getV y →
    ∃ u : State, exec (.drw x y n) t = .next u ∧ u.run = .running ∧ (∀ r : Reg, u.getV r = t.getV r) ∧
      ∀ px py : Nat, px < s.cfg.fbW → py < s.cfg.fbH → u.pixel px py = t.pixel px py

/-! ## Input and timers -/

/-- 45_input_and_timers.md: the skips on a latch slot, with the index in the register; the latch is not changed. That an index
above 15 is no slot is the spec's decision D15 (log entry 16). -/
def Obligations.KeySkips : Prop :=
  ∀ (s : State) (x : Reg) (k : Fin 16), (s.getV x).toNat = k.val →
    (∃ t : State, exec (.skp x) s = .next t ∧ t = { s with pc := t.pc } ∧
      t.pc.toNat = (s.pc.toNat + if s.key[k] = true then 4 else 2) % 65536) ∧
    (∃ t : State, exec (.sknp x) s = .next t ∧ t = { s with pc := t.pc } ∧
      t.pc.toNat = (s.pc.toNat + if s.key[k] = false then 4 else 2) % 65536)

/-- 45_input_and_timers.md, Fx07, Fx15, Fx18: the timer read takes the value before the step's tick, the loads take V[x],
and at the end of the step (phase S4) the timer is one less if it was above 0, which the spec derives (R143: "[derived: from
`40_step_cycle.md` rule R86]"). -/
def Obligations.TimerReadsAndLoads : Prop :=
  ∀ (s : State) (x : Reg), s.run = .running →
    (∃ t : State, exec (.ldVxDT x) s = .next t ∧ t = { s with v := s.v.set x s.dt, pc := s.pc + 2 } ∧
      (t.afterExec (.ldVxDT x)).dt.toNat = s.dt.toNat - 1) ∧
    (∃ t : State, exec (.ldDTVx x) s = .next t ∧ t = { s with dt := s.v[x], pc := s.pc + 2 } ∧
      (t.afterExec (.ldDTVx x)).dt.toNat = s.v[x].toNat - 1) ∧
    (∃ t : State, exec (.ldSTVx x) s = .next t ∧ t = { s with st := s.v[x], pc := s.pc + 2 } ∧
      (t.afterExec (.ldSTVx x)).st.toNat = s.v[x].toNat - 1)

/-! ## Frames. While the machine runs (only then does the step execute, R81), an execute phase that raises no fault changes
nothing but PC and what the instruction's footprint names. -/

/-- 00EE: SP; 1nnn, 3xnn, 4xnn: nothing; 2nnn: SP and the entry SP counted to. Which entry that is, is the spec's decision D8
(log entry 20). -/
def Obligations.FrameOfControlTransfer : Prop :=
  ∀ (i : Instr) (s t : State), family i = .control → s.run = .running → exec i s = .next t → t.run = .running →
    (footprint i s).Keeps s t

/-- 6xnn, 7xnn, 8xy0, 8xy2, Cxnn: V[x]; 8xy4, 8xy5: V[x] and VF. -/
def Obligations.FrameOfRegisterInstructions : Prop :=
  ∀ (i : Instr) (s t : State), family i = .alu → s.run = .running → exec i s = .next t → t.run = .running →
    (footprint i s).Keeps s t

/-- Annn, Fx1E, Fx29: I; Fx33: the bytes at I to I+2; Fx65: V[0] to V[x] and I. That Fx1E keeps VF is the spec's decision
D17 (log entry 21); what Fx33 and Fx65 write is their INTENDED variant, D18 (log entry 14). -/
def Obligations.FrameOfIndexInstructions : Prop :=
  ∀ (i : Instr) (s t : State), family i = .index → s.run = .running → exec i s = .next t → t.run = .running →
    (footprint i s).Keeps s t

/-- 00E0: every pixel; Dxyn: VF and the sprite's box. That with x or y 0xF the box stands at the old V[x], V[y] is the latched
coordinates, the spec's decision D14 (log entry 15). -/
def Obligations.FrameOfFramebufferInstructions : Prop :=
  ∀ (i : Instr) (s t : State), family i = .video → s.run = .running → exec i s = .next t → t.run = .running →
    (footprint i s).Keeps s t

/-- Ex9E, ExA1: nothing; Fx07: V[x]; Fx15: DT; Fx18: ST. -/
def Obligations.FrameOfInputAndTimerInstructions : Prop :=
  ∀ (i : Instr) (s t : State), family i = .inputTimer → s.run = .running → exec i s = .next t → t.run = .running →
    (footprint i s).Keeps s t

/-! ## The whole machine -/

/-- Every step keeps the canonical form of MEM and FB, the pixels at 0x00 or 0xFF, SP at 0 to 24, and a machine that went
wrong STOPPED (10_state.md, 60_exceptions.md). SP as a count of entries is the spec's decision D8, the unspecified faults
D9 (log entries 10, 20). -/
def Obligations.StepKeepsInv : Prop :=
  ∀ s t : State, s.Inv → step s = .next t → t.Inv

/-- R91 (which the spec derives): PC never exceeds 0x1002, and every call site on the stack is at most 0xFFE. -/
def Obligations.StepKeepsPCBounded : Prop :=
  ∀ s t : State, s.pcInv → step s = .next t → t.pcInv

/-- The host's moves keep the invariants too (R31, R45, R157; decisions D7, D21, D27, log entries 7, 22, 23). -/
def Obligations.HostMovesKeepInv : Prop :=
  ∀ s : State, s.Inv → s.pcInv →
    (s.stop.Inv ∧ s.stop.pcInv) ∧
    (∀ (k : Fin 16) (b : Bool), (s.writeKey k b).Inv ∧ (s.writeKey k b).pcInv) ∧
    (∀ t : State, s.start = .next t → t.Inv ∧ t.pcInv) ∧
    (∀ (bytes : List Byte) (t : State), State.romLoad bytes s = .next t → t.Inv ∧ t.pcInv)

/-- From every state that meets the invariant the machine has a next state: no instruction, word or operand ends a run other
than by STOPPED. That a fault is answered as a next state is the model's reading (log entry 11, DEDUCED); that only an SP above
24 has none rests on SP as a count, the spec's decision D8 (log entry 20). -/
def Obligations.StepAlwaysAnswers : Prop :=
  ∀ s : State, s.Inv → ∃ t : State, step s = .next t

/-- R27: no step changes the configuration. -/
def Obligations.StepKeepsConfig : Prop :=
  ∀ s t : State, step s = .next t → t.cfg = s.cfg

/-- 43_index_and_memory.md Instructions (R123), 20_memory.md section 1 (R40) and 30_encoding.md section 4 (R67): Fx33 is the
only instruction that writes MEM; outside the unspecified faults a byte changes in no other step. The bytes are those of the
INTENDED variant, the spec's decision D18 (log entry 14). -/
def Obligations.OnlyStoreDigitsWritesMemory : Prop :=
  ∀ (s t : State) (a : Nat), step s = .next t → t.wentWrong = false →
    t.byteAt a ≠ s.byteAt a →
    ∃ x : Reg, s.about (.ldB x) ∧ s.eaI 0 ≤ a ∧ a ≤ s.eaI 2

/-- 10_state.md section 7: only 00E0 and Dxyn write FB, and the step that does so raises the render signal. -/
def Obligations.OnlyDrawsWriteTheFramebuffer : Prop :=
  ∀ (s t : State) (px py : Nat), step s = .next t → t.wentWrong = false → px < s.cfg.fbW → py < s.cfg.fbH →
    t.pixel px py ≠ s.pixel px py →
    (s.about .cls ∨ ∃ x y n, s.about (.drw x y n)) ∧ t.render = true

/-- 10_state.md section 6: nothing reads ST (decision D28, log entry 28): two states that differ only in ST step to states that
differ only in ST. -/
def Obligations.SoundTimerIsUnobservable : Prop :=
  ∀ (s t : State) (b : Byte), step s = .next t →
    ∃ u : State, step { s with st := b } = .next u ∧ u = { t with st := u.st }

/-- R23: no instruction reads FAULT: two states that differ only in FAULT step to states that differ at most in FAULT. -/
def Obligations.FaultRegisterIsUnobservable : Prop :=
  ∀ (s t : State) (c : Cause), step s = .next t →
    ∃ u : State, step { s with fault := c } = .next u ∧ u = { t with fault := u.fault }

/-! ## Lifecycle -/

/-- 10_state.md section 9 and 40_step_cycle.md section 1: what `start` and `stop` assign, and that they change nothing else of
the machine (decision D7, log entry 7; `loadOpen` is the model's own, log entry 22). -/
def Obligations.StartAndStop : Prop :=
  ∀ s : State,
    (s.wentWrong = false →
      ∃ t : State, s.start = .next t ∧ t.run = .running ∧ t.stopReq = false ∧ t.loadOpen = false ∧
        t = { s with run := t.run, stopReq := t.stopReq, loadOpen := t.loadOpen }) ∧
    s.stop.stopReq = true ∧ s.stop = { s with stopReq := s.stop.stopReq }

/-- 20_memory.md section 2: a ROM of at most 3584 bytes, loaded once before the start, lands verbatim from 0x200 on and changes
no other byte; a longer one is refused, and so is any load while running, after a start or after a load (decision D21, log
entry 22). -/
def Obligations.RomLoadCopiesVerbatim : Prop :=
  ∀ (s : State) (bytes : List Byte),
    (s.memInv → s.run = .stopped → s.loadOpen = true → bytes.length ≤ 3584 →
      ∃ t : State, State.romLoad bytes s = .next t ∧
        (∀ (k : Nat) (h : k < bytes.length), t.byteAt (0x200 + k) = bytes[k]) ∧
        (∀ a : Nat, a < 0x200 ∨ 0x200 + bytes.length ≤ a → t.byteAt a = s.byteAt a) ∧
        t = { s with mem := t.mem, loadOpen := false }) ∧
    (s.run = .stopped → s.loadOpen = true → bytes.length > 3584 →
      State.romLoad bytes s = .refused (.romTooLarge bytes.length)) ∧
    (s.run = .running ∨ s.loadOpen = false → State.romLoad bytes s = .refused .loadOutsideBoot)

/-- 10_state.md section 9 and 60_exceptions.md section 1: what `fault_cause` shows for each cause in FAULT. The codes are the
spec's own (decision D23, log entry 7). -/
def Obligations.FaultCauseCodes : Prop :=
  ∀ s : State,
    (s.fault = .none → s.faultCause = 0) ∧
    (s.fault = .notImplemented → s.faultCause = 1) ∧
    (s.fault = .fetchRange → s.faultCause = 2) ∧
    (s.fault = .memRange → s.faultCause = 3) ∧
    (s.fault = .stackOverflow → s.faultCause = 4) ∧
    (s.fault = .stackUnderflow → s.faultCause = 5) ∧
    (s.fault = .fbRange → s.faultCause = 6) ∧
    (s.fault = .keyRange → s.faultCause = 7) ∧
    (s.fault = .unmodelled → s.faultCause = 8) ∧
    (s.fault = .romTooLarge → s.faultCause = 9)
end

