-- ==== Sys2Proof/Laws/Decode.lean ====
section
/-! SUPPORT. Laws of the decoder and encoder: the opcode rows are apart, the row a word hits is the row the decoder takes,
and the bytes of a word give the word back. -/

namespace Sys2Proof

/-- The two bytes of a word, put together again, are the word. -/
theorem wordOfBytes_hi_lo (w : Word) : wordOfBytes (hiByte w) (loByte w) = w := by
  apply BitVec.eq_of_toNat_eq
  simp only [wordOfBytes, hiByte, loByte, BitVec.toNat_append, BitVec.extractLsb'_toNat, Nat.shiftRight_zero]
  rw [← Nat.shiftLeft_add_eq_or_of_lt (Nat.mod_lt _ (by norm_num))]
  simp only [Nat.shiftLeft_eq, Nat.shiftRight_eq_div_pow]
  omega

/-- `hi*256 + lo` (20_memory.md rule R46). -/
theorem wordOfBytes_toNat (hi lo : Byte) : (wordOfBytes hi lo).toNat = hi.toNat * 256 + lo.toNat := by
  simp only [wordOfBytes, BitVec.toNat_append]
  rw [← Nat.shiftLeft_add_eq_or_of_lt lo.isLt]
  simp only [Nat.shiftLeft_eq]

/-- Two different rows disagree in a bit that both compare. -/
theorem opcodeRows_apart :
    opcodeRows.Pairwise (fun r q => (r.value &&& q.mask) ≠ (q.value &&& r.mask)) := by decide

/-- Where no two rows are hit by one word, the search finds the row that is. -/
theorem find_hit {w : Word} {r : OpcodeRow} : ∀ {l : List OpcodeRow},
    l.Pairwise (fun p q => ¬(p.hits w = true ∧ q.hits w = true)) → r ∈ l → r.hits w = true →
    l.find? (·.hits w) = some r
  | p :: l, hl, hr, hw => by
    obtain ⟨hp, hl⟩ := List.pairwise_cons.1 hl
    rcases List.mem_cons.1 hr with rfl | hr
    · simp [hw]
    · have : p.hits w = false := by
        cases h : p.hits w
        · rfl
        · exact absurd ⟨h, hw⟩ (hp r hr)
      simp only [List.find?_cons, this]
      exact find_hit hl hr hw

/-- The decoder takes the row a word hits. -/
theorem decodeWord_of_hits {w : Word} {r : OpcodeRow} (hr : r ∈ opcodeRows) (hw : r.hits w = true) :
    decodeWord w = some (r.build w) := by
  have apart : opcodeRows.Pairwise (fun p q => ¬(p.hits w = true ∧ q.hits w = true)) := by
    refine opcodeRows_apart.imp fun {p q} h hpq => h ?_
    simp only [OpcodeRow.hits, beq_iff_eq] at hpq
    rw [← hpq.1, ← hpq.2, BitVec.and_assoc, BitVec.and_assoc, BitVec.and_comm p.mask]
  simp [decodeWord, find_hit apart hr hw]

/-- An instruction comes from a row the word hits. -/
theorem decodeWord_some {w : Word} {i : Instr} (h : decodeWord w = some i) :
    ∃ r ∈ opcodeRows, r.hits w = true ∧ r.build w = i := by
  obtain ⟨r, hr, hi⟩ := Option.map_eq_some_iff.1 h
  exact ⟨r, List.mem_of_find?_eq_some hr, List.find?_some (p := fun q : OpcodeRow => q.hits w) hr, hi⟩

/-- No row: no instruction. -/
theorem decodeWord_none {w : Word} : decodeWord w = none ↔ ∀ r ∈ opcodeRows, r.hits w = false := by
  simp [decodeWord]

/-- What the two bytes of a word decode to. -/
theorem decode_bytes (w : Word) (rest : List Byte) :
    decode (hiByte w :: loByte w :: rest) =
      match decodeWord w with
      | some i => .ok (i, rest)
      | none => .error (.notImplemented w) := by
  cases h : decodeWord w <;> simp [decode, wordOfBytes_hi_lo, h]

end Sys2Proof
end

