-- ==== Sys2Proof/Laws/Memory.lean ====
section
/-! SUPPORT. The laws of the byte store: reading after a write, the canonical form, loads and free contents; and the same
for MEM and FB as the machine uses them. -/

namespace Sys2Proof.Machine

variable {d : Nat → Byte}

/-- An address no entry lists reads as the unlisted value. -/
theorem Memory.read_unlisted (m : Memory) (a : Nat) (h : ∀ c ∈ m, c.1 ≠ a) : m.read d a = d a := by
  induction m with
  | nil => rfl
  | cons c m ih =>
    have hc : a ≠ c.1 := fun e => h c (by simp) e.symm
    simp only [Memory.read, if_neg hc]
    exact ih fun e he => h e (by simp [he])

/-- Entries above `a` do not matter to a read of `a`. -/
theorem Memory.read_below (m : Memory) (a : Nat) (h : ∀ c ∈ m, a < c.1) : m.read d a = d a :=
  Memory.read_unlisted m a fun c hc e => absurd (h c hc) (by omega)

/-- A read after a write to the same address gives the value written. -/
theorem Memory.read_write_same (m : Memory) (a : Nat) (v : Byte)
    (hm : m.Pairwise (fun c e => c.1 < e.1)) : (m.write d a v).read d a = v := by
  induction m with
  | nil =>
    simp only [Memory.write]
    split <;> simp_all [Memory.read]
  | cons c m ih =>
    obtain ⟨hc, hm'⟩ := List.pairwise_cons.1 hm
    simp only [Memory.write]
    split
    · next hlt =>
      split
      · next hv =>
        rw [hv]
        refine Memory.read_below _ a fun e he => ?_
        rcases List.mem_cons.1 he with rfl | he
        · exact hlt
        · exact hlt.trans (hc e he)
      · simp [Memory.read]
    · split
      · next heq =>
        split
        · next hv =>
          rw [hv]
          exact Memory.read_below _ a fun e he => heq ▸ hc e he
        · simp [Memory.read]
      · next hne =>
        simp only [Memory.read, if_neg hne]
        exact ih hm'

/-- A write leaves every other address alone. -/
theorem Memory.read_write_other (m : Memory) (a q : Nat) (v : Byte) (hq : q ≠ a) :
    (m.write d a v).read d q = m.read d q := by
  induction m with
  | nil =>
    simp only [Memory.write]
    split <;> simp [Memory.read, hq]
  | cons c m ih =>
    simp only [Memory.write]
    split
    · split <;> simp [Memory.read, hq]
    · split
      · next heq =>
        have hqc : q ≠ c.1 := heq ▸ hq
        split <;> simp [Memory.read, hq, hqc]
      · simp only [Memory.read]
        split
        · rfl
        · exact ih

/-- The addresses a write can list. -/
theorem Memory.mem_write (m : Memory) (a : Nat) (v : Byte) (e : Host.Cell) (he : e ∈ m.write d a v) :
    (e = (a, v) ∧ v ≠ d a) ∨ e ∈ m := by
  induction m with
  | nil =>
    simp only [Memory.write] at he
    split at he <;> simp_all
  | cons c m ih =>
    simp only [Memory.write] at he
    split at he
    · split at he <;> simp_all
    · split at he
      · split at he <;> simp_all
        rcases he with he | he <;> simp [he]
      · rcases List.mem_cons.1 he with rfl | he
        · simp
        · rcases ih he with h | h <;> simp [h]

/-- A write keeps the addresses rising. -/
theorem Memory.rising_write (m : Memory) (hs : m.Pairwise (fun c e => c.1 < e.1)) (a : Nat) (v : Byte) :
    (m.write d a v).Pairwise (fun c e => c.1 < e.1) := by
  induction m with
  | nil =>
    simp only [Memory.write]
    split <;> simp
  | cons c m ih =>
    obtain ⟨hc, hm'⟩ := List.pairwise_cons.1 hs
    simp only [Memory.write]
    split
    · next hlt =>
      split
      · exact hs
      · refine List.pairwise_cons.2 ⟨fun e he => ?_, hs⟩
        rcases List.mem_cons.1 he with rfl | he
        · exact hlt
        · exact hlt.trans (hc e he)
    · split
      · next heq =>
        split
        · exact hm'
        · exact List.pairwise_cons.2 ⟨fun e he => heq ▸ hc e he, hm'⟩
      · next hge hne =>
        refine List.pairwise_cons.2 ⟨fun e he => ?_, ih hm'⟩
        rcases Memory.mem_write m a v e he with ⟨rfl, -⟩ | he
        · exact lt_of_le_of_ne (by omega) (fun h => hne h.symm)
        · exact hc e he

/-- A write keeps the canonical form. -/
theorem Memory.wf_write {n : Nat} {m : Memory} (hm : m.wf d n) (a : Nat) (ha : a < n) (v : Byte) :
    (m.write d a v).wf d n := by
  refine ⟨Memory.rising_write m hm.1 a v, fun e he => ?_⟩
  rcases Memory.mem_write m a v e he with ⟨rfl, hv⟩ | he
  · exact ⟨ha, hv⟩
  · exact hm.2 e he

/-- The empty store is canonical. -/
theorem Memory.wf_nil (n : Nat) : Memory.wf d n [] := by simp [Memory.wf]

/-- A load at `a` keeps the canonical form when it stays below `n`. -/
theorem Memory.wf_writeBytes {n : Nat} (bs : List Byte) : ∀ {m : Memory} (a : Nat), m.wf d n → a + bs.length ≤ n →
    (m.writeBytes d a bs).wf d n := by
  induction bs with
  | nil => exact fun _ hm _ => hm
  | cons b bs ih =>
    intro m a hm ha
    simp only [List.length_cons] at ha
    exact ih (a + 1) (Memory.wf_write hm a (by omega) b) (by omega)

/-- The free contents are canonical. -/
theorem Memory.wf_ofFn (n : Nat) (f : Nat → Byte) : (Memory.ofFn d n f).wf d n := by
  refine ⟨?_, fun e he => ?_⟩
  · refine List.Pairwise.filterMap _ ?_ (List.pairwise_lt_range (n := n))
    intro a b hab x hx y hy
    simp only [Option.ite_none_left_eq_some, Option.some.injEq] at hx hy
    obtain ⟨-, rfl⟩ := hx
    obtain ⟨-, rfl⟩ := hy
    exact hab
  · obtain ⟨a, ha, h⟩ := List.mem_filterMap.1 he
    split at h <;> simp_all
    obtain rfl := h
    simp_all

/-- What a free store lists comes from its function. -/
theorem Memory.mem_ofFn (n : Nat) (f : Nat → Byte) (e : Host.Cell) (he : e ∈ Memory.ofFn d n f) :
    e.2 = f e.1 ∧ f e.1 ≠ d e.1 := by
  obtain ⟨a, -, h⟩ := List.mem_filterMap.1 he
  split at h <;> simp_all
  obtain rfl := h
  simp_all

/-! ## MEM and FB -/

/-- `MEM[a]` after a store to `a`. -/
theorem State.byteAt_setByte_same (s : State) (a : Nat) (b : Byte)
    (hm : s.mem.Pairwise (fun c e => c.1 < e.1)) : (s.setByte a b).byteAt a = b :=
  Memory.read_write_same s.mem a b hm

/-- `MEM[q]` after a store elsewhere. -/
theorem State.byteAt_setByte_other (s : State) (a q : Nat) (b : Byte) (hq : q ≠ a) :
    (s.setByte a b).byteAt q = s.byteAt q :=
  Memory.read_write_other s.mem a q b hq

/-- Two pixels of the framebuffer have one index only if they are the same pixel. -/
theorem State.fbIndex_inj (s : State) {px py qx qy : Nat} (hp : px < s.cfg.fbW) (hq : qx < s.cfg.fbW)
    (h : s.fbIndex px py = s.fbIndex qx qy) : px = qx ∧ py = qy := by
  simp only [State.fbIndex] at h
  have hx := congrArg (· % s.cfg.fbW) h
  simp only [Nat.add_comm _ px, Nat.add_comm _ qx, Nat.add_mul_mod_self_right, Nat.mod_eq_of_lt hp,
    Nat.mod_eq_of_lt hq] at hx
  subst hx
  have hy := Nat.add_right_cancel h
  exact ⟨rfl, Nat.eq_of_mul_eq_mul_right (by omega) hy⟩

/-- An index of a pixel inside the framebuffer is below its size. -/
theorem State.fbIndex_lt (s : State) {px py : Nat} (hp : px < s.cfg.fbW) (hq : py < s.cfg.fbH) :
    s.fbIndex px py < s.cfg.fbW * s.cfg.fbH := by
  have : (py + 1) * s.cfg.fbW ≤ s.cfg.fbH * s.cfg.fbW := Nat.mul_le_mul_right _ hq
  simp only [State.fbIndex]
  rw [Nat.mul_comm s.cfg.fbW]
  rw [Nat.add_mul, Nat.one_mul] at this
  omega

/-- `FB[px, py]` after a write to it. -/
theorem State.pixel_setPixel_same (s : State) (px py : Nat) (b : Byte)
    (hm : s.fb.Pairwise (fun c e => c.1 < e.1)) : (s.setPixel px py b).pixel px py = b :=
  Memory.read_write_same s.fb _ b hm

/-- `FB[qx, qy]` after a write to another pixel. -/
theorem State.pixel_setPixel_other (s : State) {px py qx qy : Nat} (b : Byte) (hp : px < s.cfg.fbW)
    (hq : qx < s.cfg.fbW) (hne : ¬(qx = px ∧ qy = py)) :
    (s.setPixel px py b).pixel qx qy = s.pixel qx qy := by
  refine Memory.read_write_other s.fb _ _ b (fun h => hne ?_)
  exact s.fbIndex_inj hq hp h

end Sys2Proof.Machine
end

