-- ==== Sys2Proof/Laws/State.lean ====
section
/-! SUPPORT. One lemma per field of `State` per named update, so that no proof unfolds a record update. -/

namespace Sys2Proof.Machine

/-! ### State.setV -/

@[simp] theorem State.setV_cfg (s : State) (x : Reg) (b : Byte) : (s.setV x b).cfg = s.cfg := rfl
@[simp] theorem State.setV_v (s : State) (x : Reg) (b : Byte) : (s.setV x b).v = s.v.set x b := rfl
@[simp] theorem State.setV_i (s : State) (x : Reg) (b : Byte) : (s.setV x b).i = s.i := rfl
@[simp] theorem State.setV_pc (s : State) (x : Reg) (b : Byte) : (s.setV x b).pc = s.pc := rfl
@[simp] theorem State.setV_sp (s : State) (x : Reg) (b : Byte) : (s.setV x b).sp = s.sp := rfl
@[simp] theorem State.setV_stk (s : State) (x : Reg) (b : Byte) : (s.setV x b).stk = s.stk := rfl
@[simp] theorem State.setV_dt (s : State) (x : Reg) (b : Byte) : (s.setV x b).dt = s.dt := rfl
@[simp] theorem State.setV_st (s : State) (x : Reg) (b : Byte) : (s.setV x b).st = s.st := rfl
@[simp] theorem State.setV_mem (s : State) (x : Reg) (b : Byte) : (s.setV x b).mem = s.mem := rfl
@[simp] theorem State.setV_fb (s : State) (x : Reg) (b : Byte) : (s.setV x b).fb = s.fb := rfl
@[simp] theorem State.setV_run (s : State) (x : Reg) (b : Byte) : (s.setV x b).run = s.run := rfl
@[simp] theorem State.setV_stopReq (s : State) (x : Reg) (b : Byte) : (s.setV x b).stopReq = s.stopReq := rfl
@[simp] theorem State.setV_fault (s : State) (x : Reg) (b : Byte) : (s.setV x b).fault = s.fault := rfl
@[simp] theorem State.setV_key (s : State) (x : Reg) (b : Byte) : (s.setV x b).key = s.key := rfl
@[simp] theorem State.setV_rnd (s : State) (x : Reg) (b : Byte) : (s.setV x b).rnd = s.rnd := rfl
@[simp] theorem State.setV_render (s : State) (x : Reg) (b : Byte) : (s.setV x b).render = s.render := rfl
@[simp] theorem State.setV_loadOpen (s : State) (x : Reg) (b : Byte) : (s.setV x b).loadOpen = s.loadOpen := rfl
@[simp] theorem State.setV_ticks (s : State) (x : Reg) (b : Byte) : (s.setV x b).ticks = s.ticks := rfl

/-! ### State.setI -/

@[simp] theorem State.setI_cfg (s : State) (w : Word) : (s.setI w).cfg = s.cfg := rfl
@[simp] theorem State.setI_v (s : State) (w : Word) : (s.setI w).v = s.v := rfl
@[simp] theorem State.setI_i (s : State) (w : Word) : (s.setI w).i = w := rfl
@[simp] theorem State.setI_pc (s : State) (w : Word) : (s.setI w).pc = s.pc := rfl
@[simp] theorem State.setI_sp (s : State) (w : Word) : (s.setI w).sp = s.sp := rfl
@[simp] theorem State.setI_stk (s : State) (w : Word) : (s.setI w).stk = s.stk := rfl
@[simp] theorem State.setI_dt (s : State) (w : Word) : (s.setI w).dt = s.dt := rfl
@[simp] theorem State.setI_st (s : State) (w : Word) : (s.setI w).st = s.st := rfl
@[simp] theorem State.setI_mem (s : State) (w : Word) : (s.setI w).mem = s.mem := rfl
@[simp] theorem State.setI_fb (s : State) (w : Word) : (s.setI w).fb = s.fb := rfl
@[simp] theorem State.setI_run (s : State) (w : Word) : (s.setI w).run = s.run := rfl
@[simp] theorem State.setI_stopReq (s : State) (w : Word) : (s.setI w).stopReq = s.stopReq := rfl
@[simp] theorem State.setI_fault (s : State) (w : Word) : (s.setI w).fault = s.fault := rfl
@[simp] theorem State.setI_key (s : State) (w : Word) : (s.setI w).key = s.key := rfl
@[simp] theorem State.setI_rnd (s : State) (w : Word) : (s.setI w).rnd = s.rnd := rfl
@[simp] theorem State.setI_render (s : State) (w : Word) : (s.setI w).render = s.render := rfl
@[simp] theorem State.setI_loadOpen (s : State) (w : Word) : (s.setI w).loadOpen = s.loadOpen := rfl
@[simp] theorem State.setI_ticks (s : State) (w : Word) : (s.setI w).ticks = s.ticks := rfl

/-! ### State.setPC -/

@[simp] theorem State.setPC_cfg (s : State) (w : Word) : (s.setPC w).cfg = s.cfg := rfl
@[simp] theorem State.setPC_v (s : State) (w : Word) : (s.setPC w).v = s.v := rfl
@[simp] theorem State.setPC_i (s : State) (w : Word) : (s.setPC w).i = s.i := rfl
@[simp] theorem State.setPC_pc (s : State) (w : Word) : (s.setPC w).pc = w := rfl
@[simp] theorem State.setPC_sp (s : State) (w : Word) : (s.setPC w).sp = s.sp := rfl
@[simp] theorem State.setPC_stk (s : State) (w : Word) : (s.setPC w).stk = s.stk := rfl
@[simp] theorem State.setPC_dt (s : State) (w : Word) : (s.setPC w).dt = s.dt := rfl
@[simp] theorem State.setPC_st (s : State) (w : Word) : (s.setPC w).st = s.st := rfl
@[simp] theorem State.setPC_mem (s : State) (w : Word) : (s.setPC w).mem = s.mem := rfl
@[simp] theorem State.setPC_fb (s : State) (w : Word) : (s.setPC w).fb = s.fb := rfl
@[simp] theorem State.setPC_run (s : State) (w : Word) : (s.setPC w).run = s.run := rfl
@[simp] theorem State.setPC_stopReq (s : State) (w : Word) : (s.setPC w).stopReq = s.stopReq := rfl
@[simp] theorem State.setPC_fault (s : State) (w : Word) : (s.setPC w).fault = s.fault := rfl
@[simp] theorem State.setPC_key (s : State) (w : Word) : (s.setPC w).key = s.key := rfl
@[simp] theorem State.setPC_rnd (s : State) (w : Word) : (s.setPC w).rnd = s.rnd := rfl
@[simp] theorem State.setPC_render (s : State) (w : Word) : (s.setPC w).render = s.render := rfl
@[simp] theorem State.setPC_loadOpen (s : State) (w : Word) : (s.setPC w).loadOpen = s.loadOpen := rfl
@[simp] theorem State.setPC_ticks (s : State) (w : Word) : (s.setPC w).ticks = s.ticks := rfl

/-! ### State.setDT -/

@[simp] theorem State.setDT_cfg (s : State) (b : Byte) : (s.setDT b).cfg = s.cfg := rfl
@[simp] theorem State.setDT_v (s : State) (b : Byte) : (s.setDT b).v = s.v := rfl
@[simp] theorem State.setDT_i (s : State) (b : Byte) : (s.setDT b).i = s.i := rfl
@[simp] theorem State.setDT_pc (s : State) (b : Byte) : (s.setDT b).pc = s.pc := rfl
@[simp] theorem State.setDT_sp (s : State) (b : Byte) : (s.setDT b).sp = s.sp := rfl
@[simp] theorem State.setDT_stk (s : State) (b : Byte) : (s.setDT b).stk = s.stk := rfl
@[simp] theorem State.setDT_dt (s : State) (b : Byte) : (s.setDT b).dt = b := rfl
@[simp] theorem State.setDT_st (s : State) (b : Byte) : (s.setDT b).st = s.st := rfl
@[simp] theorem State.setDT_mem (s : State) (b : Byte) : (s.setDT b).mem = s.mem := rfl
@[simp] theorem State.setDT_fb (s : State) (b : Byte) : (s.setDT b).fb = s.fb := rfl
@[simp] theorem State.setDT_run (s : State) (b : Byte) : (s.setDT b).run = s.run := rfl
@[simp] theorem State.setDT_stopReq (s : State) (b : Byte) : (s.setDT b).stopReq = s.stopReq := rfl
@[simp] theorem State.setDT_fault (s : State) (b : Byte) : (s.setDT b).fault = s.fault := rfl
@[simp] theorem State.setDT_key (s : State) (b : Byte) : (s.setDT b).key = s.key := rfl
@[simp] theorem State.setDT_rnd (s : State) (b : Byte) : (s.setDT b).rnd = s.rnd := rfl
@[simp] theorem State.setDT_render (s : State) (b : Byte) : (s.setDT b).render = s.render := rfl
@[simp] theorem State.setDT_loadOpen (s : State) (b : Byte) : (s.setDT b).loadOpen = s.loadOpen := rfl
@[simp] theorem State.setDT_ticks (s : State) (b : Byte) : (s.setDT b).ticks = s.ticks := rfl

/-! ### State.setST -/

@[simp] theorem State.setST_cfg (s : State) (b : Byte) : (s.setST b).cfg = s.cfg := rfl
@[simp] theorem State.setST_v (s : State) (b : Byte) : (s.setST b).v = s.v := rfl
@[simp] theorem State.setST_i (s : State) (b : Byte) : (s.setST b).i = s.i := rfl
@[simp] theorem State.setST_pc (s : State) (b : Byte) : (s.setST b).pc = s.pc := rfl
@[simp] theorem State.setST_sp (s : State) (b : Byte) : (s.setST b).sp = s.sp := rfl
@[simp] theorem State.setST_stk (s : State) (b : Byte) : (s.setST b).stk = s.stk := rfl
@[simp] theorem State.setST_dt (s : State) (b : Byte) : (s.setST b).dt = s.dt := rfl
@[simp] theorem State.setST_st (s : State) (b : Byte) : (s.setST b).st = b := rfl
@[simp] theorem State.setST_mem (s : State) (b : Byte) : (s.setST b).mem = s.mem := rfl
@[simp] theorem State.setST_fb (s : State) (b : Byte) : (s.setST b).fb = s.fb := rfl
@[simp] theorem State.setST_run (s : State) (b : Byte) : (s.setST b).run = s.run := rfl
@[simp] theorem State.setST_stopReq (s : State) (b : Byte) : (s.setST b).stopReq = s.stopReq := rfl
@[simp] theorem State.setST_fault (s : State) (b : Byte) : (s.setST b).fault = s.fault := rfl
@[simp] theorem State.setST_key (s : State) (b : Byte) : (s.setST b).key = s.key := rfl
@[simp] theorem State.setST_rnd (s : State) (b : Byte) : (s.setST b).rnd = s.rnd := rfl
@[simp] theorem State.setST_render (s : State) (b : Byte) : (s.setST b).render = s.render := rfl
@[simp] theorem State.setST_loadOpen (s : State) (b : Byte) : (s.setST b).loadOpen = s.loadOpen := rfl
@[simp] theorem State.setST_ticks (s : State) (b : Byte) : (s.setST b).ticks = s.ticks := rfl

/-! ### State.setByte -/

@[simp] theorem State.setByte_cfg (s : State) (a : Nat) (b : Byte) : (s.setByte a b).cfg = s.cfg := rfl
@[simp] theorem State.setByte_v (s : State) (a : Nat) (b : Byte) : (s.setByte a b).v = s.v := rfl
@[simp] theorem State.setByte_i (s : State) (a : Nat) (b : Byte) : (s.setByte a b).i = s.i := rfl
@[simp] theorem State.setByte_pc (s : State) (a : Nat) (b : Byte) : (s.setByte a b).pc = s.pc := rfl
@[simp] theorem State.setByte_sp (s : State) (a : Nat) (b : Byte) : (s.setByte a b).sp = s.sp := rfl
@[simp] theorem State.setByte_stk (s : State) (a : Nat) (b : Byte) : (s.setByte a b).stk = s.stk := rfl
@[simp] theorem State.setByte_dt (s : State) (a : Nat) (b : Byte) : (s.setByte a b).dt = s.dt := rfl
@[simp] theorem State.setByte_st (s : State) (a : Nat) (b : Byte) : (s.setByte a b).st = s.st := rfl
@[simp] theorem State.setByte_mem (s : State) (a : Nat) (b : Byte) : (s.setByte a b).mem = s.mem.write (initialByte s.cfg) a b := rfl
@[simp] theorem State.setByte_fb (s : State) (a : Nat) (b : Byte) : (s.setByte a b).fb = s.fb := rfl
@[simp] theorem State.setByte_run (s : State) (a : Nat) (b : Byte) : (s.setByte a b).run = s.run := rfl
@[simp] theorem State.setByte_stopReq (s : State) (a : Nat) (b : Byte) : (s.setByte a b).stopReq = s.stopReq := rfl
@[simp] theorem State.setByte_fault (s : State) (a : Nat) (b : Byte) : (s.setByte a b).fault = s.fault := rfl
@[simp] theorem State.setByte_key (s : State) (a : Nat) (b : Byte) : (s.setByte a b).key = s.key := rfl
@[simp] theorem State.setByte_rnd (s : State) (a : Nat) (b : Byte) : (s.setByte a b).rnd = s.rnd := rfl
@[simp] theorem State.setByte_render (s : State) (a : Nat) (b : Byte) : (s.setByte a b).render = s.render := rfl
@[simp] theorem State.setByte_loadOpen (s : State) (a : Nat) (b : Byte) : (s.setByte a b).loadOpen = s.loadOpen := rfl
@[simp] theorem State.setByte_ticks (s : State) (a : Nat) (b : Byte) : (s.setByte a b).ticks = s.ticks := rfl

/-! ### State.setPixel -/

@[simp] theorem State.setPixel_cfg (s : State) (px py : Nat) (b : Byte) : (s.setPixel px py b).cfg = s.cfg := rfl
@[simp] theorem State.setPixel_v (s : State) (px py : Nat) (b : Byte) : (s.setPixel px py b).v = s.v := rfl
@[simp] theorem State.setPixel_i (s : State) (px py : Nat) (b : Byte) : (s.setPixel px py b).i = s.i := rfl
@[simp] theorem State.setPixel_pc (s : State) (px py : Nat) (b : Byte) : (s.setPixel px py b).pc = s.pc := rfl
@[simp] theorem State.setPixel_sp (s : State) (px py : Nat) (b : Byte) : (s.setPixel px py b).sp = s.sp := rfl
@[simp] theorem State.setPixel_stk (s : State) (px py : Nat) (b : Byte) : (s.setPixel px py b).stk = s.stk := rfl
@[simp] theorem State.setPixel_dt (s : State) (px py : Nat) (b : Byte) : (s.setPixel px py b).dt = s.dt := rfl
@[simp] theorem State.setPixel_st (s : State) (px py : Nat) (b : Byte) : (s.setPixel px py b).st = s.st := rfl
@[simp] theorem State.setPixel_mem (s : State) (px py : Nat) (b : Byte) : (s.setPixel px py b).mem = s.mem := rfl
@[simp] theorem State.setPixel_fb (s : State) (px py : Nat) (b : Byte) : (s.setPixel px py b).fb = s.fb.write initialPixel (s.fbIndex px py) b := rfl
@[simp] theorem State.setPixel_run (s : State) (px py : Nat) (b : Byte) : (s.setPixel px py b).run = s.run := rfl
@[simp] theorem State.setPixel_stopReq (s : State) (px py : Nat) (b : Byte) : (s.setPixel px py b).stopReq = s.stopReq := rfl
@[simp] theorem State.setPixel_fault (s : State) (px py : Nat) (b : Byte) : (s.setPixel px py b).fault = s.fault := rfl
@[simp] theorem State.setPixel_key (s : State) (px py : Nat) (b : Byte) : (s.setPixel px py b).key = s.key := rfl
@[simp] theorem State.setPixel_rnd (s : State) (px py : Nat) (b : Byte) : (s.setPixel px py b).rnd = s.rnd := rfl
@[simp] theorem State.setPixel_render (s : State) (px py : Nat) (b : Byte) : (s.setPixel px py b).render = s.render := rfl
@[simp] theorem State.setPixel_loadOpen (s : State) (px py : Nat) (b : Byte) : (s.setPixel px py b).loadOpen = s.loadOpen := rfl
@[simp] theorem State.setPixel_ticks (s : State) (px py : Nat) (b : Byte) : (s.setPixel px py b).ticks = s.ticks := rfl

/-! ### State.clearFB -/

@[simp] theorem State.clearFB_cfg (s : State) : (s.clearFB).cfg = s.cfg := rfl
@[simp] theorem State.clearFB_v (s : State) : (s.clearFB).v = s.v := rfl
@[simp] theorem State.clearFB_i (s : State) : (s.clearFB).i = s.i := rfl
@[simp] theorem State.clearFB_pc (s : State) : (s.clearFB).pc = s.pc := rfl
@[simp] theorem State.clearFB_sp (s : State) : (s.clearFB).sp = s.sp := rfl
@[simp] theorem State.clearFB_stk (s : State) : (s.clearFB).stk = s.stk := rfl
@[simp] theorem State.clearFB_dt (s : State) : (s.clearFB).dt = s.dt := rfl
@[simp] theorem State.clearFB_st (s : State) : (s.clearFB).st = s.st := rfl
@[simp] theorem State.clearFB_mem (s : State) : (s.clearFB).mem = s.mem := rfl
@[simp] theorem State.clearFB_fb (s : State) : (s.clearFB).fb = [] := rfl
@[simp] theorem State.clearFB_run (s : State) : (s.clearFB).run = s.run := rfl
@[simp] theorem State.clearFB_stopReq (s : State) : (s.clearFB).stopReq = s.stopReq := rfl
@[simp] theorem State.clearFB_fault (s : State) : (s.clearFB).fault = s.fault := rfl
@[simp] theorem State.clearFB_key (s : State) : (s.clearFB).key = s.key := rfl
@[simp] theorem State.clearFB_rnd (s : State) : (s.clearFB).rnd = s.rnd := rfl
@[simp] theorem State.clearFB_render (s : State) : (s.clearFB).render = s.render := rfl
@[simp] theorem State.clearFB_loadOpen (s : State) : (s.clearFB).loadOpen = s.loadOpen := rfl
@[simp] theorem State.clearFB_ticks (s : State) : (s.clearFB).ticks = s.ticks := rfl

/-! ### State.advance -/

@[simp] theorem State.advance_cfg (s : State) : (s.advance).cfg = s.cfg := rfl
@[simp] theorem State.advance_v (s : State) : (s.advance).v = s.v := rfl
@[simp] theorem State.advance_i (s : State) : (s.advance).i = s.i := rfl
@[simp] theorem State.advance_pc (s : State) : (s.advance).pc = s.pc + 2 := rfl
@[simp] theorem State.advance_sp (s : State) : (s.advance).sp = s.sp := rfl
@[simp] theorem State.advance_stk (s : State) : (s.advance).stk = s.stk := rfl
@[simp] theorem State.advance_dt (s : State) : (s.advance).dt = s.dt := rfl
@[simp] theorem State.advance_st (s : State) : (s.advance).st = s.st := rfl
@[simp] theorem State.advance_mem (s : State) : (s.advance).mem = s.mem := rfl
@[simp] theorem State.advance_fb (s : State) : (s.advance).fb = s.fb := rfl
@[simp] theorem State.advance_run (s : State) : (s.advance).run = s.run := rfl
@[simp] theorem State.advance_stopReq (s : State) : (s.advance).stopReq = s.stopReq := rfl
@[simp] theorem State.advance_fault (s : State) : (s.advance).fault = s.fault := rfl
@[simp] theorem State.advance_key (s : State) : (s.advance).key = s.key := rfl
@[simp] theorem State.advance_rnd (s : State) : (s.advance).rnd = s.rnd := rfl
@[simp] theorem State.advance_render (s : State) : (s.advance).render = s.render := rfl
@[simp] theorem State.advance_loadOpen (s : State) : (s.advance).loadOpen = s.loadOpen := rfl
@[simp] theorem State.advance_ticks (s : State) : (s.advance).ticks = s.ticks := rfl

/-! ### State.skipIf -/

@[simp] theorem State.skipIf_cfg (s : State) (c : Bool) : (s.skipIf c).cfg = s.cfg := rfl
@[simp] theorem State.skipIf_v (s : State) (c : Bool) : (s.skipIf c).v = s.v := rfl
@[simp] theorem State.skipIf_i (s : State) (c : Bool) : (s.skipIf c).i = s.i := rfl
@[simp] theorem State.skipIf_pc (s : State) (c : Bool) : (s.skipIf c).pc = if c then s.pc + 4 else s.pc + 2 := rfl
@[simp] theorem State.skipIf_sp (s : State) (c : Bool) : (s.skipIf c).sp = s.sp := rfl
@[simp] theorem State.skipIf_stk (s : State) (c : Bool) : (s.skipIf c).stk = s.stk := rfl
@[simp] theorem State.skipIf_dt (s : State) (c : Bool) : (s.skipIf c).dt = s.dt := rfl
@[simp] theorem State.skipIf_st (s : State) (c : Bool) : (s.skipIf c).st = s.st := rfl
@[simp] theorem State.skipIf_mem (s : State) (c : Bool) : (s.skipIf c).mem = s.mem := rfl
@[simp] theorem State.skipIf_fb (s : State) (c : Bool) : (s.skipIf c).fb = s.fb := rfl
@[simp] theorem State.skipIf_run (s : State) (c : Bool) : (s.skipIf c).run = s.run := rfl
@[simp] theorem State.skipIf_stopReq (s : State) (c : Bool) : (s.skipIf c).stopReq = s.stopReq := rfl
@[simp] theorem State.skipIf_fault (s : State) (c : Bool) : (s.skipIf c).fault = s.fault := rfl
@[simp] theorem State.skipIf_key (s : State) (c : Bool) : (s.skipIf c).key = s.key := rfl
@[simp] theorem State.skipIf_rnd (s : State) (c : Bool) : (s.skipIf c).rnd = s.rnd := rfl
@[simp] theorem State.skipIf_render (s : State) (c : Bool) : (s.skipIf c).render = s.render := rfl
@[simp] theorem State.skipIf_loadOpen (s : State) (c : Bool) : (s.skipIf c).loadOpen = s.loadOpen := rfl
@[simp] theorem State.skipIf_ticks (s : State) (c : Bool) : (s.skipIf c).ticks = s.ticks := rfl

/-! ### State.tickTimers -/

@[simp] theorem State.tickTimers_cfg (s : State) : (s.tickTimers).cfg = s.cfg := rfl
@[simp] theorem State.tickTimers_v (s : State) : (s.tickTimers).v = s.v := rfl
@[simp] theorem State.tickTimers_i (s : State) : (s.tickTimers).i = s.i := rfl
@[simp] theorem State.tickTimers_pc (s : State) : (s.tickTimers).pc = s.pc := rfl
@[simp] theorem State.tickTimers_sp (s : State) : (s.tickTimers).sp = s.sp := rfl
@[simp] theorem State.tickTimers_stk (s : State) : (s.tickTimers).stk = s.stk := rfl
@[simp] theorem State.tickTimers_dt (s : State) : (s.tickTimers).dt = tickDown s.dt := rfl
@[simp] theorem State.tickTimers_st (s : State) : (s.tickTimers).st = tickDown s.st := rfl
@[simp] theorem State.tickTimers_mem (s : State) : (s.tickTimers).mem = s.mem := rfl
@[simp] theorem State.tickTimers_fb (s : State) : (s.tickTimers).fb = s.fb := rfl
@[simp] theorem State.tickTimers_run (s : State) : (s.tickTimers).run = s.run := rfl
@[simp] theorem State.tickTimers_stopReq (s : State) : (s.tickTimers).stopReq = s.stopReq := rfl
@[simp] theorem State.tickTimers_fault (s : State) : (s.tickTimers).fault = s.fault := rfl
@[simp] theorem State.tickTimers_key (s : State) : (s.tickTimers).key = s.key := rfl
@[simp] theorem State.tickTimers_rnd (s : State) : (s.tickTimers).rnd = s.rnd := rfl
@[simp] theorem State.tickTimers_render (s : State) : (s.tickTimers).render = s.render := rfl
@[simp] theorem State.tickTimers_loadOpen (s : State) : (s.tickTimers).loadOpen = s.loadOpen := rfl
@[simp] theorem State.tickTimers_ticks (s : State) : (s.tickTimers).ticks = s.ticks := rfl

/-! ### State.lowerRender -/

@[simp] theorem State.lowerRender_cfg (s : State) : (s.lowerRender).cfg = s.cfg := rfl
@[simp] theorem State.lowerRender_v (s : State) : (s.lowerRender).v = s.v := rfl
@[simp] theorem State.lowerRender_i (s : State) : (s.lowerRender).i = s.i := rfl
@[simp] theorem State.lowerRender_pc (s : State) : (s.lowerRender).pc = s.pc := rfl
@[simp] theorem State.lowerRender_sp (s : State) : (s.lowerRender).sp = s.sp := rfl
@[simp] theorem State.lowerRender_stk (s : State) : (s.lowerRender).stk = s.stk := rfl
@[simp] theorem State.lowerRender_dt (s : State) : (s.lowerRender).dt = s.dt := rfl
@[simp] theorem State.lowerRender_st (s : State) : (s.lowerRender).st = s.st := rfl
@[simp] theorem State.lowerRender_mem (s : State) : (s.lowerRender).mem = s.mem := rfl
@[simp] theorem State.lowerRender_fb (s : State) : (s.lowerRender).fb = s.fb := rfl
@[simp] theorem State.lowerRender_run (s : State) : (s.lowerRender).run = s.run := rfl
@[simp] theorem State.lowerRender_stopReq (s : State) : (s.lowerRender).stopReq = s.stopReq := rfl
@[simp] theorem State.lowerRender_fault (s : State) : (s.lowerRender).fault = s.fault := rfl
@[simp] theorem State.lowerRender_key (s : State) : (s.lowerRender).key = s.key := rfl
@[simp] theorem State.lowerRender_rnd (s : State) : (s.lowerRender).rnd = s.rnd := rfl
@[simp] theorem State.lowerRender_render (s : State) : (s.lowerRender).render = false := rfl
@[simp] theorem State.lowerRender_loadOpen (s : State) : (s.lowerRender).loadOpen = s.loadOpen := rfl
@[simp] theorem State.lowerRender_ticks (s : State) : (s.lowerRender).ticks = s.ticks := rfl

/-! ### State.awaitTick -/

@[simp] theorem State.awaitTick_cfg (s : State) : (s.awaitTick).cfg = s.cfg := rfl
@[simp] theorem State.awaitTick_v (s : State) : (s.awaitTick).v = s.v := rfl
@[simp] theorem State.awaitTick_i (s : State) : (s.awaitTick).i = s.i := rfl
@[simp] theorem State.awaitTick_pc (s : State) : (s.awaitTick).pc = s.pc := rfl
@[simp] theorem State.awaitTick_sp (s : State) : (s.awaitTick).sp = s.sp := rfl
@[simp] theorem State.awaitTick_stk (s : State) : (s.awaitTick).stk = s.stk := rfl
@[simp] theorem State.awaitTick_dt (s : State) : (s.awaitTick).dt = s.dt := rfl
@[simp] theorem State.awaitTick_st (s : State) : (s.awaitTick).st = s.st := rfl
@[simp] theorem State.awaitTick_mem (s : State) : (s.awaitTick).mem = s.mem := rfl
@[simp] theorem State.awaitTick_fb (s : State) : (s.awaitTick).fb = s.fb := rfl
@[simp] theorem State.awaitTick_run (s : State) : (s.awaitTick).run = s.run := rfl
@[simp] theorem State.awaitTick_stopReq (s : State) : (s.awaitTick).stopReq = s.stopReq := rfl
@[simp] theorem State.awaitTick_fault (s : State) : (s.awaitTick).fault = s.fault := rfl
@[simp] theorem State.awaitTick_key (s : State) : (s.awaitTick).key = Vector.ofFn (fun k => Config.keySlot (s.ticks + 1) k.val) := rfl
@[simp] theorem State.awaitTick_rnd (s : State) : (s.awaitTick).rnd = Config.rndByte (s.ticks + 1) := rfl
@[simp] theorem State.awaitTick_render (s : State) : (s.awaitTick).render = s.render := rfl
@[simp] theorem State.awaitTick_loadOpen (s : State) : (s.awaitTick).loadOpen = s.loadOpen := rfl
@[simp] theorem State.awaitTick_ticks (s : State) : (s.awaitTick).ticks = s.ticks + 1 := rfl

/-! ### State.stop -/

@[simp] theorem State.stop_cfg (s : State) : (s.stop).cfg = s.cfg := rfl
@[simp] theorem State.stop_v (s : State) : (s.stop).v = s.v := rfl
@[simp] theorem State.stop_i (s : State) : (s.stop).i = s.i := rfl
@[simp] theorem State.stop_pc (s : State) : (s.stop).pc = s.pc := rfl
@[simp] theorem State.stop_sp (s : State) : (s.stop).sp = s.sp := rfl
@[simp] theorem State.stop_stk (s : State) : (s.stop).stk = s.stk := rfl
@[simp] theorem State.stop_dt (s : State) : (s.stop).dt = s.dt := rfl
@[simp] theorem State.stop_st (s : State) : (s.stop).st = s.st := rfl
@[simp] theorem State.stop_mem (s : State) : (s.stop).mem = s.mem := rfl
@[simp] theorem State.stop_fb (s : State) : (s.stop).fb = s.fb := rfl
@[simp] theorem State.stop_run (s : State) : (s.stop).run = s.run := rfl
@[simp] theorem State.stop_stopReq (s : State) : (s.stop).stopReq = true := rfl
@[simp] theorem State.stop_fault (s : State) : (s.stop).fault = s.fault := rfl
@[simp] theorem State.stop_key (s : State) : (s.stop).key = s.key := rfl
@[simp] theorem State.stop_rnd (s : State) : (s.stop).rnd = s.rnd := rfl
@[simp] theorem State.stop_render (s : State) : (s.stop).render = s.render := rfl
@[simp] theorem State.stop_loadOpen (s : State) : (s.stop).loadOpen = s.loadOpen := rfl
@[simp] theorem State.stop_ticks (s : State) : (s.stop).ticks = s.ticks := rfl

/-! ### State.writeKey -/

@[simp] theorem State.writeKey_cfg (s : State) (k : Fin 16) (p : Bool) : (s.writeKey k p).cfg = s.cfg := rfl
@[simp] theorem State.writeKey_v (s : State) (k : Fin 16) (p : Bool) : (s.writeKey k p).v = s.v := rfl
@[simp] theorem State.writeKey_i (s : State) (k : Fin 16) (p : Bool) : (s.writeKey k p).i = s.i := rfl
@[simp] theorem State.writeKey_pc (s : State) (k : Fin 16) (p : Bool) : (s.writeKey k p).pc = s.pc := rfl
@[simp] theorem State.writeKey_sp (s : State) (k : Fin 16) (p : Bool) : (s.writeKey k p).sp = s.sp := rfl
@[simp] theorem State.writeKey_stk (s : State) (k : Fin 16) (p : Bool) : (s.writeKey k p).stk = s.stk := rfl
@[simp] theorem State.writeKey_dt (s : State) (k : Fin 16) (p : Bool) : (s.writeKey k p).dt = s.dt := rfl
@[simp] theorem State.writeKey_st (s : State) (k : Fin 16) (p : Bool) : (s.writeKey k p).st = s.st := rfl
@[simp] theorem State.writeKey_mem (s : State) (k : Fin 16) (p : Bool) : (s.writeKey k p).mem = s.mem := rfl
@[simp] theorem State.writeKey_fb (s : State) (k : Fin 16) (p : Bool) : (s.writeKey k p).fb = s.fb := rfl
@[simp] theorem State.writeKey_run (s : State) (k : Fin 16) (p : Bool) : (s.writeKey k p).run = s.run := rfl
@[simp] theorem State.writeKey_stopReq (s : State) (k : Fin 16) (p : Bool) : (s.writeKey k p).stopReq = s.stopReq := rfl
@[simp] theorem State.writeKey_fault (s : State) (k : Fin 16) (p : Bool) : (s.writeKey k p).fault = s.fault := rfl
@[simp] theorem State.writeKey_key (s : State) (k : Fin 16) (p : Bool) : (s.writeKey k p).key = s.key.set k p := rfl
@[simp] theorem State.writeKey_rnd (s : State) (k : Fin 16) (p : Bool) : (s.writeKey k p).rnd = s.rnd := rfl
@[simp] theorem State.writeKey_render (s : State) (k : Fin 16) (p : Bool) : (s.writeKey k p).render = s.render := rfl
@[simp] theorem State.writeKey_loadOpen (s : State) (k : Fin 16) (p : Bool) : (s.writeKey k p).loadOpen = s.loadOpen := rfl
@[simp] theorem State.writeKey_ticks (s : State) (k : Fin 16) (p : Bool) : (s.writeKey k p).ticks = s.ticks := rfl

/-! ### State.faulted -/

@[simp] theorem State.faulted_run (c : Cause) (s : State) : (s.faulted c).run = .stopped := rfl

@[simp] theorem State.faulted_fault (c : Cause) (s : State) : (s.faulted c).fault = c := rfl

@[simp] theorem State.faulted_cfg (c : Cause) (s : State) : (s.faulted c).cfg = s.cfg := by
  cases c <;> rfl

@[simp] theorem State.faulted_stopReq (c : Cause) (s : State) : (s.faulted c).stopReq = s.stopReq := by
  cases c <;> rfl

@[simp] theorem State.faulted_key (c : Cause) (s : State) : (s.faulted c).key = s.key := by
  cases c <;> rfl

@[simp] theorem State.faulted_rnd (c : Cause) (s : State) : (s.faulted c).rnd = s.rnd := by
  cases c <;> rfl

@[simp] theorem State.faulted_render (c : Cause) (s : State) : (s.faulted c).render = s.render := by
  cases c <;> rfl

@[simp] theorem State.faulted_loadOpen (c : Cause) (s : State) : (s.faulted c).loadOpen = s.loadOpen := by
  cases c <;> rfl

@[simp] theorem State.faulted_ticks (c : Cause) (s : State) : (s.faulted c).ticks = s.ticks := by
  cases c <;> rfl

/-- A precise fault changes only RUN and FAULT (R151). -/
theorem State.faulted_precise (c : Cause) (s : State) (h : c.unspecified = false) :
    s.faulted c = { s with run := .stopped, fault := c } := by
  simp [State.faulted, h]

/-! ### State.noteCollision: at most VF -/

@[simp] theorem State.noteCollision_cfg (s : State) (a b : Byte) : (s.noteCollision a b).cfg = s.cfg := by
  unfold State.noteCollision; split <;> rfl

@[simp] theorem State.noteCollision_i (s : State) (a b : Byte) : (s.noteCollision a b).i = s.i := by
  unfold State.noteCollision; split <;> rfl

@[simp] theorem State.noteCollision_pc (s : State) (a b : Byte) : (s.noteCollision a b).pc = s.pc := by
  unfold State.noteCollision; split <;> rfl

@[simp] theorem State.noteCollision_sp (s : State) (a b : Byte) : (s.noteCollision a b).sp = s.sp := by
  unfold State.noteCollision; split <;> rfl

@[simp] theorem State.noteCollision_stk (s : State) (a b : Byte) : (s.noteCollision a b).stk = s.stk := by
  unfold State.noteCollision; split <;> rfl

@[simp] theorem State.noteCollision_dt (s : State) (a b : Byte) : (s.noteCollision a b).dt = s.dt := by
  unfold State.noteCollision; split <;> rfl

@[simp] theorem State.noteCollision_st (s : State) (a b : Byte) : (s.noteCollision a b).st = s.st := by
  unfold State.noteCollision; split <;> rfl

@[simp] theorem State.noteCollision_mem (s : State) (a b : Byte) : (s.noteCollision a b).mem = s.mem := by
  unfold State.noteCollision; split <;> rfl

@[simp] theorem State.noteCollision_fb (s : State) (a b : Byte) : (s.noteCollision a b).fb = s.fb := by
  unfold State.noteCollision; split <;> rfl

@[simp] theorem State.noteCollision_run (s : State) (a b : Byte) : (s.noteCollision a b).run = s.run := by
  unfold State.noteCollision; split <;> rfl

@[simp] theorem State.noteCollision_stopReq (s : State) (a b : Byte) : (s.noteCollision a b).stopReq = s.stopReq := by
  unfold State.noteCollision; split <;> rfl

@[simp] theorem State.noteCollision_fault (s : State) (a b : Byte) : (s.noteCollision a b).fault = s.fault := by
  unfold State.noteCollision; split <;> rfl

@[simp] theorem State.noteCollision_key (s : State) (a b : Byte) : (s.noteCollision a b).key = s.key := by
  unfold State.noteCollision; split <;> rfl

@[simp] theorem State.noteCollision_rnd (s : State) (a b : Byte) : (s.noteCollision a b).rnd = s.rnd := by
  unfold State.noteCollision; split <;> rfl

@[simp] theorem State.noteCollision_render (s : State) (a b : Byte) : (s.noteCollision a b).render = s.render := by
  unfold State.noteCollision; split <;> rfl

@[simp] theorem State.noteCollision_loadOpen (s : State) (a b : Byte) : (s.noteCollision a b).loadOpen = s.loadOpen := by
  unfold State.noteCollision; split <;> rfl

@[simp] theorem State.noteCollision_ticks (s : State) (a b : Byte) : (s.noteCollision a b).ticks = s.ticks := by
  unfold State.noteCollision; split <;> rfl

/-! ### State.flagThenResult: at most VF and V[x] -/

@[simp] theorem State.flagThenResult_cfg (s : State) (x y : Reg) (g h : Byte → Byte → Byte) :
    (s.flagThenResult x y g h).cfg = s.cfg := by
  simp only [State.flagThenResult]; split <;> rfl

@[simp] theorem State.flagThenResult_i (s : State) (x y : Reg) (g h : Byte → Byte → Byte) :
    (s.flagThenResult x y g h).i = s.i := by
  simp only [State.flagThenResult]; split <;> rfl

@[simp] theorem State.flagThenResult_pc (s : State) (x y : Reg) (g h : Byte → Byte → Byte) :
    (s.flagThenResult x y g h).pc = s.pc := by
  simp only [State.flagThenResult]; split <;> rfl

@[simp] theorem State.flagThenResult_sp (s : State) (x y : Reg) (g h : Byte → Byte → Byte) :
    (s.flagThenResult x y g h).sp = s.sp := by
  simp only [State.flagThenResult]; split <;> rfl

@[simp] theorem State.flagThenResult_stk (s : State) (x y : Reg) (g h : Byte → Byte → Byte) :
    (s.flagThenResult x y g h).stk = s.stk := by
  simp only [State.flagThenResult]; split <;> rfl

@[simp] theorem State.flagThenResult_dt (s : State) (x y : Reg) (g h : Byte → Byte → Byte) :
    (s.flagThenResult x y g h).dt = s.dt := by
  simp only [State.flagThenResult]; split <;> rfl

@[simp] theorem State.flagThenResult_st (s : State) (x y : Reg) (g h : Byte → Byte → Byte) :
    (s.flagThenResult x y g h).st = s.st := by
  simp only [State.flagThenResult]; split <;> rfl

@[simp] theorem State.flagThenResult_mem (s : State) (x y : Reg) (g h : Byte → Byte → Byte) :
    (s.flagThenResult x y g h).mem = s.mem := by
  simp only [State.flagThenResult]; split <;> rfl

@[simp] theorem State.flagThenResult_fb (s : State) (x y : Reg) (g h : Byte → Byte → Byte) :
    (s.flagThenResult x y g h).fb = s.fb := by
  simp only [State.flagThenResult]; split <;> rfl

@[simp] theorem State.flagThenResult_run (s : State) (x y : Reg) (g h : Byte → Byte → Byte) :
    (s.flagThenResult x y g h).run = s.run := by
  simp only [State.flagThenResult]; split <;> rfl

@[simp] theorem State.flagThenResult_stopReq (s : State) (x y : Reg) (g h : Byte → Byte → Byte) :
    (s.flagThenResult x y g h).stopReq = s.stopReq := by
  simp only [State.flagThenResult]; split <;> rfl

@[simp] theorem State.flagThenResult_fault (s : State) (x y : Reg) (g h : Byte → Byte → Byte) :
    (s.flagThenResult x y g h).fault = s.fault := by
  simp only [State.flagThenResult]; split <;> rfl

@[simp] theorem State.flagThenResult_key (s : State) (x y : Reg) (g h : Byte → Byte → Byte) :
    (s.flagThenResult x y g h).key = s.key := by
  simp only [State.flagThenResult]; split <;> rfl

@[simp] theorem State.flagThenResult_rnd (s : State) (x y : Reg) (g h : Byte → Byte → Byte) :
    (s.flagThenResult x y g h).rnd = s.rnd := by
  simp only [State.flagThenResult]; split <;> rfl

@[simp] theorem State.flagThenResult_render (s : State) (x y : Reg) (g h : Byte → Byte → Byte) :
    (s.flagThenResult x y g h).render = s.render := by
  simp only [State.flagThenResult]; split <;> rfl

@[simp] theorem State.flagThenResult_loadOpen (s : State) (x y : Reg) (g h : Byte → Byte → Byte) :
    (s.flagThenResult x y g h).loadOpen = s.loadOpen := by
  simp only [State.flagThenResult]; split <;> rfl

@[simp] theorem State.flagThenResult_ticks (s : State) (x y : Reg) (g h : Byte → Byte → Byte) :
    (s.flagThenResult x y g h).ticks = s.ticks := by
  simp only [State.flagThenResult]; split <;> rfl

/-! ### Reading a register after a write -/

@[simp] theorem State.getV_setV_same (s : State) (x : Reg) (b : Byte) : (s.setV x b).getV x = b := by
  simp [State.getV, State.setV]

theorem State.getV_setV_other (s : State) (x r : Reg) (b : Byte) (h : r ≠ x) :
    (s.setV x b).getV r = s.getV r := by
  have hn : x.val ≠ r.val := fun e => h (Fin.ext e.symm)
  simp [State.getV, State.setV, hn]

theorem State.getV_setV (s : State) (x r : Reg) (b : Byte) :
    (s.setV x b).getV r = if r = x then b else s.getV r := by
  split
  · subst_vars; simp
  · next h => exact State.getV_setV_other s x r b h

/-! ### The reads `getV`, `byteAt` and `pixel` after an update of something else -/

@[simp] theorem State.byteAt_setV (s : State) (x : Reg) (b : Byte) (q : Nat) : (s.setV x b).byteAt q = s.byteAt q := rfl

@[simp] theorem State.pixel_setV (s : State) (x : Reg) (b : Byte) (qx qy : Nat) : (s.setV x b).pixel qx qy = s.pixel qx qy := rfl

@[simp] theorem State.getV_setI (s : State) (w : Word) (r : Reg) : (s.setI w).getV r = s.getV r := rfl

@[simp] theorem State.byteAt_setI (s : State) (w : Word) (q : Nat) : (s.setI w).byteAt q = s.byteAt q := rfl

@[simp] theorem State.pixel_setI (s : State) (w : Word) (qx qy : Nat) : (s.setI w).pixel qx qy = s.pixel qx qy := rfl

@[simp] theorem State.getV_setPC (s : State) (w : Word) (r : Reg) : (s.setPC w).getV r = s.getV r := rfl

@[simp] theorem State.byteAt_setPC (s : State) (w : Word) (q : Nat) : (s.setPC w).byteAt q = s.byteAt q := rfl

@[simp] theorem State.pixel_setPC (s : State) (w : Word) (qx qy : Nat) : (s.setPC w).pixel qx qy = s.pixel qx qy := rfl

@[simp] theorem State.getV_setDT (s : State) (b : Byte) (r : Reg) : (s.setDT b).getV r = s.getV r := rfl

@[simp] theorem State.byteAt_setDT (s : State) (b : Byte) (q : Nat) : (s.setDT b).byteAt q = s.byteAt q := rfl

@[simp] theorem State.pixel_setDT (s : State) (b : Byte) (qx qy : Nat) : (s.setDT b).pixel qx qy = s.pixel qx qy := rfl

@[simp] theorem State.getV_setST (s : State) (b : Byte) (r : Reg) : (s.setST b).getV r = s.getV r := rfl

@[simp] theorem State.byteAt_setST (s : State) (b : Byte) (q : Nat) : (s.setST b).byteAt q = s.byteAt q := rfl

@[simp] theorem State.pixel_setST (s : State) (b : Byte) (qx qy : Nat) : (s.setST b).pixel qx qy = s.pixel qx qy := rfl

@[simp] theorem State.getV_setByte (s : State) (a : Nat) (b : Byte) (r : Reg) : (s.setByte a b).getV r = s.getV r := rfl

@[simp] theorem State.pixel_setByte (s : State) (a : Nat) (b : Byte) (qx qy : Nat) : (s.setByte a b).pixel qx qy = s.pixel qx qy := rfl

@[simp] theorem State.getV_setPixel (s : State) (px py : Nat) (b : Byte) (r : Reg) : (s.setPixel px py b).getV r = s.getV r := rfl

@[simp] theorem State.byteAt_setPixel (s : State) (px py : Nat) (b : Byte) (q : Nat) : (s.setPixel px py b).byteAt q = s.byteAt q := rfl

@[simp] theorem State.getV_clearFB (s : State) (r : Reg) : (s.clearFB).getV r = s.getV r := rfl

@[simp] theorem State.byteAt_clearFB (s : State) (q : Nat) : (s.clearFB).byteAt q = s.byteAt q := rfl

@[simp] theorem State.getV_advance (s : State) (r : Reg) : (s.advance).getV r = s.getV r := rfl

@[simp] theorem State.byteAt_advance (s : State) (q : Nat) : (s.advance).byteAt q = s.byteAt q := rfl

@[simp] theorem State.pixel_advance (s : State) (qx qy : Nat) : (s.advance).pixel qx qy = s.pixel qx qy := rfl

@[simp] theorem State.getV_skipIf (s : State) (c : Bool) (r : Reg) : (s.skipIf c).getV r = s.getV r := rfl

@[simp] theorem State.byteAt_skipIf (s : State) (c : Bool) (q : Nat) : (s.skipIf c).byteAt q = s.byteAt q := rfl

@[simp] theorem State.pixel_skipIf (s : State) (c : Bool) (qx qy : Nat) : (s.skipIf c).pixel qx qy = s.pixel qx qy := rfl

@[simp] theorem State.getV_tickTimers (s : State) (r : Reg) : (s.tickTimers).getV r = s.getV r := rfl

@[simp] theorem State.byteAt_tickTimers (s : State) (q : Nat) : (s.tickTimers).byteAt q = s.byteAt q := rfl

@[simp] theorem State.pixel_tickTimers (s : State) (qx qy : Nat) : (s.tickTimers).pixel qx qy = s.pixel qx qy := rfl

@[simp] theorem State.getV_lowerRender (s : State) (r : Reg) : (s.lowerRender).getV r = s.getV r := rfl

@[simp] theorem State.byteAt_lowerRender (s : State) (q : Nat) : (s.lowerRender).byteAt q = s.byteAt q := rfl

@[simp] theorem State.pixel_lowerRender (s : State) (qx qy : Nat) : (s.lowerRender).pixel qx qy = s.pixel qx qy := rfl

@[simp] theorem State.getV_awaitTick (s : State) (r : Reg) : (s.awaitTick).getV r = s.getV r := rfl

@[simp] theorem State.byteAt_awaitTick (s : State) (q : Nat) : (s.awaitTick).byteAt q = s.byteAt q := rfl

@[simp] theorem State.pixel_awaitTick (s : State) (qx qy : Nat) : (s.awaitTick).pixel qx qy = s.pixel qx qy := rfl

@[simp] theorem State.getV_stop (s : State) (r : Reg) : (s.stop).getV r = s.getV r := rfl

@[simp] theorem State.byteAt_stop (s : State) (q : Nat) : (s.stop).byteAt q = s.byteAt q := rfl

@[simp] theorem State.pixel_stop (s : State) (qx qy : Nat) : (s.stop).pixel qx qy = s.pixel qx qy := rfl

@[simp] theorem State.getV_writeKey (s : State) (k : Fin 16) (p : Bool) (r : Reg) : (s.writeKey k p).getV r = s.getV r := rfl

@[simp] theorem State.byteAt_writeKey (s : State) (k : Fin 16) (p : Bool) (q : Nat) : (s.writeKey k p).byteAt q = s.byteAt q := rfl

@[simp] theorem State.pixel_writeKey (s : State) (k : Fin 16) (p : Bool) (qx qy : Nat) : (s.writeKey k p).pixel qx qy = s.pixel qx qy := rfl

end Sys2Proof.Machine
end

