-- ==== Sys2Proof/Laws/Ops.lean ====
section
/-! SUPPORT. What each shared operation can do, said once: a proof about an instruction cites these and unfolds none of
the operations. -/

namespace Sys2Proof.Machine

/-! ## Single accesses -/

theorem State.memRead_inRange (s : State) {a : Nat} (h : a ≤ 0xFFF) : s.memRead a = .ok (s.byteAt a) := by
  have : a < memSize := by simp only [memSize]; omega
  simp only [State.memRead, if_pos this]

theorem State.memRead_outOfRange (s : State) {a : Nat} (h : 0xFFF < a) : s.memRead a = .error .memRange := by
  have : ¬ a < memSize := by simp only [memSize]; omega
  simp only [State.memRead, if_neg this]

theorem State.memWrite_inRange (s : State) {a : Nat} (h : a ≤ 0xFFF) (b : Byte) :
    s.memWrite a b = .ok (s.setByte a b) := by
  have : a < memSize := by simp only [memSize]; omega
  simp only [State.memWrite, if_pos this]

theorem State.memWrite_outOfRange (s : State) {a : Nat} (h : 0xFFF < a) (b : Byte) :
    s.memWrite a b = .error .memRange := by
  have : ¬ a < memSize := by simp only [memSize]; omega
  simp only [State.memWrite, if_neg this]

theorem State.readKey_slot (s : State) (k : Fin 16) : s.readKey k.val = .ok s.key[k] := by
  simp [State.readKey]

theorem State.readKey_outOfRange (s : State) {k : Nat} (h : 15 < k) : s.readKey k = .error .keyRange := by
  simp only [State.readKey]
  rw [dif_neg (by omega)]

theorem State.fetch16_inRange (s : State) (h : s.pc.toNat ≤ 0xFFE) :
    s.fetch16 = .ok (wordOfBytes (s.byteAt s.pc.toNat) (s.byteAt (s.pc.toNat + 1))) := by
  simp only [State.fetch16]
  rw [if_neg (by omega)]

theorem State.fetch16_outOfRange (s : State) (h : 0xFFE < s.pc.toNat) : s.fetch16 = .error .fetchRange := by
  simp only [State.fetch16]
  rw [if_pos (by omega)]

/-! ## The ends of an execute phase -/

@[simp] theorem State.settle_ok (s t : State) : s.settle (.ok t) = .next t := rfl

@[simp] theorem State.settle_error (s : State) (c : Cause) : s.settle (.error c) = .next (s.faulted c) := rfl

@[simp] theorem State.raise_eq (s : State) (c : Cause) : s.raise c = .next (s.faulted c) := rfl

/-- An execute phase that settles always has a next state: the one it computed or the fault it met. -/
theorem State.settle_next {s t : State} {r : Except Cause State} (h : s.settle r = .next t) :
    r = .ok t ∨ ∃ c, r = .error c ∧ t = s.faulted c := by
  cases r with
  | ok u => simp_all
  | error c => simp_all

/-- A state that still runs is not one a fault left. -/
theorem State.settle_running {s t : State} {r : Except Cause State} (h : s.settle r = .next t)
    (ht : t.run = .running) : r = .ok t := by
  rcases State.settle_next h with h | ⟨c, -, rfl⟩
  · exact h
  · simp at ht

theorem State.push_room (s : State) (w : Word) (k : State → State) (h : s.sp.toNat < 24) :
    s.push w k = .next (k { s with stk := s.stk.set s.sp.toNat w, sp := s.sp + 1 }) := by
  simp [State.push, h]

theorem State.push_full (s : State) (w : Word) (k : State → State) (h : s.sp = 24) :
    s.push w k = .next (s.faulted .stackOverflow) := by
  simp [State.push, h, stackDepth]

theorem State.pop_entry (s : State) (k : Word → State → State) (n : Nat) (hn : n < 24) (h : s.sp.toNat = n + 1) :
    s.pop k = .next (k s.stk[n] { s with sp := s.sp - 1 }) := by
  simp [State.pop, h, hn]

theorem State.pop_empty (s : State) (k : Word → State → State) (h : s.sp = 0) :
    s.pop k = .next (s.faulted .stackUnderflow) := by
  simp [State.pop, h]

/-- A push either uses a free entry, overflows at 24, or has no entry to use. -/
theorem State.push_next {s t : State} {w : Word} {k : State → State} (h : s.push w k = .next t) :
    (∃ hs : s.sp.toNat < 24, t = k { s with stk := s.stk.set s.sp.toNat w, sp := s.sp + 1 }) ∨
    (s.sp.toNat = 24 ∧ t = s.faulted .stackOverflow) := by
  simp only [State.push] at h
  split at h
  · next hs => exact .inl ⟨hs, by simpa using h.symm⟩
  · split at h
    · next he => exact .inr ⟨he, by simpa using h.symm⟩
    · simp at h

/-- A pop either takes the last entry, underflows at 0, or has no entry to take. -/
theorem State.pop_next {s t : State} {k : Word → State → State} (h : s.pop k = .next t) :
    (∃ (n : Nat) (hn : n < 24), s.sp.toNat = n + 1 ∧ t = k s.stk[n] { s with sp := s.sp - 1 }) ∨
    (s.sp.toNat = 0 ∧ t = s.faulted .stackUnderflow) := by
  simp only [State.pop] at h
  split at h
  · next he => exact .inr ⟨he, by simpa using h.symm⟩
  · split at h
    · next hne hs => exact .inl ⟨s.sp.toNat - 1, hs, by omega, by simpa using h.symm⟩
    · simp at h

/-! ## Fx33's stores -/

theorem State.storeDigits_inRange (s : State) (v : Byte) (h : s.i.toNat ≤ 0xFFD) :
    s.storeDigits v = .ok (((s.setByte s.i.toNat (digitHundreds v)).setByte (s.i.toNat + 1) (digitTens v)).setByte
      (s.i.toNat + 2) (digitUnits v)) := by
  simp only [State.storeDigits, State.eaI, Nat.add_zero]
  rw [State.memWrite_inRange _ (by omega)]
  simp only
  rw [State.memWrite_inRange _ (by omega)]
  simp only
  rw [State.memWrite_inRange _ (by omega)]

theorem State.storeDigits_outOfRange (s : State) (v : Byte) (h : 0xFFD < s.i.toNat) :
    s.storeDigits v = .error .memRange := by
  simp only [State.storeDigits, State.eaI]
  by_cases h0 : s.i.toNat ≤ 0xFFF
  · rw [State.memWrite_inRange _ (by omega)]
    simp only
    by_cases h1 : s.i.toNat + 1 ≤ 0xFFF
    · rw [State.memWrite_inRange _ h1]
      exact State.memWrite_outOfRange _ (by omega) _
    · rw [State.memWrite_outOfRange _ (by omega)]
  · rw [State.memWrite_outOfRange _ (by omega)]

/-! ## Fx65's loop -/

/-- In range, the loop loads `count` registers from `V[k]` on and changes nothing else but I. -/
theorem State.fillRegs_inRange (count : Nat) : ∀ (k : Nat) (s : State), k + count ≤ 16 →
    s.i.toNat + count ≤ 0x1000 → ∃ t : State, State.fillRegs count k s = .ok t ∧
      (∀ r : Reg, k ≤ r.val → r.val < k + count → t.getV r = s.byteAt (s.i.toNat + (r.val - k))) ∧
      (∀ r : Reg, r.val < k ∨ k + count ≤ r.val → t.getV r = s.getV r) ∧
      t.i.toNat = s.i.toNat + count ∧ t = { s with v := t.v, i := t.i } := by
  induction count with
  | zero => exact fun k s _ _ => ⟨s, rfl, fun r h h' => by omega, fun _ _ => rfl, rfl, rfl⟩
  | succ count ih =>
    intro k s hk hi
    have hone : (s.i + 1).toNat = s.i.toNat + 1 := by
      simp only [BitVec.toNat_add, BitVec.ofNat_eq_ofNat, BitVec.toNat_ofNat]
      omega
    have hkv : (Fin.ofNat 16 k).val = k := by
      simp only [Fin.ofNat]
      omega
    obtain ⟨t, ht, hin, hout, hti, hte⟩ := ih (k + 1) ((s.setV (Fin.ofNat 16 k) (s.byteAt s.i.toNat)).setI (s.i + 1))
      (by omega) (by simp only [State.setI_i, hone]; omega)
    refine ⟨t, ?_, ?_, ?_, ?_, ?_⟩
    · simp only [State.fillRegs, State.eaI, Nat.add_zero]
      rw [State.memRead_inRange _ (by omega)]
      exact ht
    · intro r hr hr'
      by_cases he : r.val = k
      · rw [hout r (by omega)]
        have : r = Fin.ofNat 16 k := Fin.ext (by omega)
        simp only [State.getV_setI, State.getV_setV, if_pos this, he, Nat.sub_self, Nat.add_zero]
      · rw [hin r (by omega) (by omega)]
        simp only [State.byteAt_setI, State.byteAt_setV, State.setI_i, hone]
        congr 1
        omega
    · intro r hr
      rw [hout r (by omega)]
      have : r ≠ Fin.ofNat 16 k := fun h => by
        have := congrArg Fin.val h
        omega
      simp only [State.getV_setI, State.getV_setV, if_neg this]
    · rw [hti]
      simp only [State.setI_i, hone]
      omega
    · rw [hte]
      rfl

/-- Out of range, the loop meets MemRange. -/
theorem State.fillRegs_outOfRange (count : Nat) : ∀ (k : Nat) (s : State), 0 < count →
    0x1000 < s.i.toNat + count → State.fillRegs count k s = .error .memRange := by
  induction count with
  | zero => exact fun _ _ h => absurd h (by omega)
  | succ count ih =>
    intro k s _ hi
    simp only [State.fillRegs, State.eaI, Nat.add_zero]
    by_cases h : s.i.toNat ≤ 0xFFF
    · have hone : (s.i + 1).toNat = s.i.toNat + 1 := by
        simp only [BitVec.toNat_add, BitVec.ofNat_eq_ofNat, BitVec.toNat_ofNat]
        omega
      rw [State.memRead_inRange _ h]
      exact ih (k + 1) _ (by omega) (by simp only [State.setI_i, hone]; omega)
    · rw [State.memRead_outOfRange _ (by omega)]

/-- In range, the result of Fx65's loop reads the registers, I and nothing else from what it computed; out of range it is
MemRange: nothing else can happen. -/
theorem State.fillRegs_cases (x : Reg) (s : State) :
    (s.i.toNat + x.val ≤ 0xFFF ∧ ∃ t : State, State.fillRegs (x.val + 1) 0 s = .ok t ∧
      (∀ r : Reg, r.val ≤ x.val → t.getV r = s.byteAt (s.i.toNat + r.val)) ∧
      (∀ r : Reg, x.val < r.val → t.getV r = s.getV r) ∧
      t.i.toNat = s.i.toNat + x.val + 1 ∧ t = { s with v := t.v, i := t.i }) ∨
    (0xFFF < s.i.toNat + x.val ∧ State.fillRegs (x.val + 1) 0 s = .error .memRange) := by
  by_cases h : s.i.toNat + x.val ≤ 0xFFF
  · obtain ⟨t, ht, hin, hout, hi, he⟩ := State.fillRegs_inRange (x.val + 1) 0 s (by omega) (by omega)
    refine .inl ⟨h, t, ht, fun r hr => ?_, fun r hr => hout r (by omega), by omega, he⟩
    rw [hin r (by omega) (by omega), Nat.sub_zero]
  · exact .inr ⟨by omega, State.fillRegs_outOfRange _ 0 s (by omega) (by omega)⟩

end Sys2Proof.Machine
end

