-- ==== Sys2Proof/Laws/Draw.lean ====
section
/-! SUPPORT. What drawing does: one relation between the state before and after a part of a draw, kept by a pixel, a row
and the rows together. -/

namespace Sys2Proof.Machine

/-- From `s` to `t` exactly the pixels of `box` were overwritten with the bits `bit`, VF noted the collisions, and nothing
else changed. -/
structure Drawn (s t : State) (box : Nat → Nat → Prop) (bit : Nat → Nat → Bool) : Prop where
  inside : ∀ px py, box px py → px < s.cfg.fbW ∧ py < s.cfg.fbH
  frame : t = { s with v := t.v, fb := t.fb }
  regs : ∀ r : Reg, r ≠ 15 → t.getV r = s.getV r
  rising : s.fb.Pairwise (fun c e => c.1 < e.1) → t.fb.Pairwise (fun c e => c.1 < e.1)
  canonical : s.fb.wf initialPixel (s.cfg.fbW * s.cfg.fbH) ∧ (∀ c ∈ s.fb, c.2 = pixOn) →
    t.fb.wf initialPixel (s.cfg.fbW * s.cfg.fbH) ∧ ∀ c ∈ t.fb, c.2 = pixOn
  on : s.fb.Pairwise (fun c e => c.1 < e.1) → ∀ px py, box px py → t.pixel px py = spritePixel (bit px py)
  off : ∀ px py, px < s.cfg.fbW → ¬ box px py → t.pixel px py = s.pixel px py
  hit : (∃ px py, box px py ∧ s.pixel px py = pixOn ∧ bit px py = false) → t.getV 15 = 0x01
  miss : (¬ ∃ px py, box px py ∧ s.pixel px py = pixOn ∧ bit px py = false) → t.getV 15 = s.getV 15

/-- Nothing drawn. -/
theorem Drawn.refl (s : State) (bit : Nat → Nat → Bool) : Drawn s s (fun _ _ => False) bit where
  inside := fun _ _ h => h.elim
  frame := rfl
  regs := fun _ _ => rfl
  rising := id
  canonical := id
  on := fun _ _ _ h => h.elim
  off := fun _ _ _ _ => rfl
  hit := fun ⟨_, _, h, _⟩ => h.elim
  miss := fun _ => rfl

theorem Drawn.cfg {s t : State} {box bit} (h : Drawn s t box bit) : t.cfg = s.cfg := by rw [h.frame]

/-- Two parts of a draw that share no pixel are one. -/
theorem Drawn.trans {s t u : State} {A B : Nat → Nat → Prop} {bit : Nat → Nat → Bool} (h : Drawn s t A bit)
    (k : Drawn t u B bit) (apart : ∀ px py, A px py → ¬ B px py) :
    Drawn s u (fun px py => A px py ∨ B px py) bit where
  inside := fun px py hb => hb.elim (h.inside px py) (fun hb => h.cfg ▸ k.inside px py hb)
  frame := by
    rw [k.frame, h.frame]
  regs := fun r hr => (k.regs r hr).trans (h.regs r hr)
  rising := fun hs => k.rising (h.rising hs)
  canonical := fun hs => h.cfg ▸ k.canonical (by rw [h.cfg]; exact h.canonical hs)
  on := fun hs px py hb => by
    by_cases hB : B px py
    · exact k.on (h.rising hs) px py hB
    · have hA := hb.resolve_right hB
      rw [k.off px py (h.cfg ▸ (h.inside px py hA).1) hB]
      exact h.on hs px py hA
  off := fun px py hp hb => by
    rw [k.off px py (h.cfg ▸ hp) (fun hB => hb (.inr hB)), h.off px py hp (fun hA => hb (.inl hA))]
  hit := fun ⟨px, py, hb, hon, hbit⟩ => by
    by_cases hB : ∃ qx qy, B qx qy ∧ t.pixel qx qy = pixOn ∧ bit qx qy = false
    · exact k.hit hB
    · rw [k.miss hB]
      refine h.hit ⟨px, py, hb.resolve_right fun hb' => hB ⟨px, py, hb', ?_, hbit⟩, hon, hbit⟩
      rw [h.off px py (h.cfg ▸ (k.inside px py hb').1) (fun hA => apart px py hA hb')]
      exact hon
  miss := fun hn => by
    rw [k.miss, h.miss]
    · exact fun ⟨px, py, hA, hon, hbit⟩ => hn ⟨px, py, .inl hA, hon, hbit⟩
    · rintro ⟨px, py, hB, hon, hbit⟩
      refine hn ⟨px, py, .inr hB, ?_, hbit⟩
      rw [← h.off px py (h.cfg ▸ (k.inside px py hB).1) (fun hA => apart px py hA hB)]
      exact hon

/-- The same draw under another description of its pixels and bits. -/
theorem Drawn.congr {s t : State} {A B : Nat → Nat → Prop} {f g : Nat → Nat → Bool} (h : Drawn s t A f)
    (hAB : ∀ px py, A px py ↔ B px py) (hfg : ∀ px py, A px py → f px py = g px py) : Drawn s t B g where
  inside := fun px py hb => h.inside px py ((hAB px py).2 hb)
  frame := h.frame
  regs := h.regs
  rising := h.rising
  canonical := h.canonical
  on := fun hs px py hb => by
    rw [h.on hs px py ((hAB px py).2 hb), hfg px py ((hAB px py).2 hb)]
  off := fun px py hp hb => h.off px py hp (fun ha => hb ((hAB px py).1 ha))
  hit := fun ⟨px, py, hb, hon, hbit⟩ =>
    h.hit ⟨px, py, (hAB px py).2 hb, hon, (hfg px py ((hAB px py).2 hb)).trans hbit⟩
  miss := fun hn => h.miss fun ⟨px, py, ha, hon, hbit⟩ =>
    hn ⟨px, py, (hAB px py).1 ha, hon, (hfg px py ha).symm.trans hbit⟩

/-- One pixel, inside the framebuffer. -/
theorem State.drawPixel_inside (s : State) {px py : Nat} (hx : px < s.cfg.fbW) (hy : py < s.cfg.fbH)
    (bit : Nat → Nat → Bool) :
    ∃ t : State, s.drawPixel px py (spritePixel (bit px py)) = .ok t ∧
      Drawn s t (fun qx qy => qx = px ∧ qy = py) bit := by
  have hin : ¬(px ≥ s.cfg.fbW ∨ py ≥ s.cfg.fbH) := by omega
  refine ⟨(s.noteCollision (s.pixel px py) (spritePixel (bit px py))).setPixel px py (spritePixel (bit px py)),
    by simp only [State.drawPixel, if_neg hin], ?_⟩
  have hcol : collides (s.pixel px py) (spritePixel (bit px py)) = true ↔
      s.pixel px py = pixOn ∧ bit px py = false := by
    cases hb : bit px py <;> simp [collides, spritePixel]
  have hidx : (s.noteCollision (s.pixel px py) (spritePixel (bit px py))).fbIndex px py = s.fbIndex px py := by
    simp [State.fbIndex]
  constructor
  · rintro qx qy ⟨rfl, rfl⟩
    exact ⟨hx, hy⟩
  · simp only [State.noteCollision]
    split <;> rfl
  · intro r hr
    simp only [State.getV_setPixel, State.noteCollision]
    split
    · exact State.getV_setV_other _ _ _ _ hr
    · rfl
  · intro hs
    simp only [State.setPixel_fb, State.noteCollision_fb, hidx]
    exact Memory.rising_write _ hs _ _
  · rintro ⟨hw, hon⟩
    simp only [State.setPixel_fb, State.noteCollision_fb, hidx]
    refine ⟨Memory.wf_write hw _ (s.fbIndex_lt hx hy) _, fun c hc => ?_⟩
    rcases Memory.mem_write _ _ _ _ hc with ⟨rfl, hv⟩ | hc
    · cases hb : bit px py <;> simp_all [spritePixel, initialPixel]
    · exact hon c hc
  · rintro hs qx qy ⟨rfl, rfl⟩
    exact State.pixel_setPixel_same _ _ _ _ (by simpa using hs)
  · intro qx qy hq hne
    rw [State.pixel_setPixel_other _ _ (by simpa using hx) (by simpa using hq) hne]
    simp [State.pixel, State.fbIndex]
  · rintro ⟨qx, qy, ⟨rfl, rfl⟩, h⟩
    simp only [State.getV_setPixel, State.noteCollision, if_pos (hcol.2 h), regF, State.getV_setV_same]
    rfl
  · intro hn
    have : ¬ collides (s.pixel px py) (spritePixel (bit px py)) = true := fun h =>
      hn ⟨px, py, ⟨rfl, rfl⟩, hcol.1 h⟩
    simp only [State.getV_setPixel, State.noteCollision, if_neg this]

/-- One pixel outside the framebuffer. -/
theorem State.drawPixel_outside (s : State) {px py : Nat} (h : s.cfg.fbW ≤ px ∨ s.cfg.fbH ≤ py) (b : Byte) :
    s.drawPixel px py b = .error .fbRange := by
  simp only [State.drawPixel]
  rw [if_pos (by omega)]

/-- The columns of one row, inside the framebuffer. -/
theorem State.drawCols_inside (b : Byte) (x0 py : Nat) (bit : Nat → Nat → Bool) (cs : List Nat) :
    ∀ s : State, cs.Nodup → (∀ c ∈ cs, x0 + c < s.cfg.fbW ∧ bit (x0 + c) py = spriteBit b c) → py < s.cfg.fbH →
      ∃ t : State, State.drawCols b x0 py cs s = .ok t ∧
        Drawn s t (fun qx qy => (∃ c ∈ cs, qx = x0 + c) ∧ qy = py) bit := by
  induction cs with
  | nil => exact fun s _ _ _ => ⟨s, rfl, (Drawn.refl s bit).congr (by simp) (fun _ _ h => h.elim)⟩
  | cons c cs ih =>
    intro s hnd hcs hy
    obtain ⟨hc, hnd⟩ := List.nodup_cons.1 hnd
    obtain ⟨hx, hbit⟩ := hcs c (by simp)
    obtain ⟨m, hm, hd⟩ := s.drawPixel_inside hx hy bit
    obtain ⟨t, ht, he⟩ := ih m hnd (fun e he => hd.cfg ▸ hcs e (by simp [he])) (hd.cfg ▸ hy)
    refine ⟨t, ?_, (hd.trans he ?_).congr ?_ (fun _ _ _ => rfl)⟩
    · simp only [State.drawCols, ← hbit, hm]
      exact ht
    · rintro qx qy ⟨rfl, rfl⟩ ⟨⟨e, he, h⟩, -⟩
      have : c = e := by omega
      exact hc (this ▸ he)
    · intro qx qy
      constructor
      · rintro (⟨rfl, rfl⟩ | ⟨⟨e, hmem, rfl⟩, rfl⟩)
        · exact ⟨⟨c, by simp, rfl⟩, rfl⟩
        · exact ⟨⟨e, by simp [hmem], rfl⟩, rfl⟩
      · rintro ⟨⟨e, hmem, rfl⟩, rfl⟩
        rcases List.mem_cons.1 hmem with rfl | hmem
        · exact .inl ⟨rfl, rfl⟩
        · exact .inr ⟨⟨e, hmem, rfl⟩, rfl⟩

/-- A row with a pixel outside the framebuffer meets FbRange. -/
theorem State.drawCols_outside (b : Byte) (x0 py : Nat) (cs : List Nat) : ∀ s : State,
    (∃ c ∈ cs, s.cfg.fbW ≤ x0 + c ∨ s.cfg.fbH ≤ py) → State.drawCols b x0 py cs s = .error .fbRange := by
  induction cs with
  | nil => exact fun s ⟨_, h, _⟩ => by simp at h
  | cons c cs ih =>
    rintro s ⟨e, he, ho⟩
    simp only [State.drawCols]
    by_cases h : s.cfg.fbW ≤ x0 + c ∨ s.cfg.fbH ≤ py
    · rw [State.drawPixel_outside s h]
    · obtain ⟨m, hm, hd⟩ := s.drawPixel_inside (px := x0 + c) (py := py) (by omega) (by omega)
        (fun _ _ => spriteBit b c)
      rw [hm]
      refine ih m ⟨e, ?_, by rw [hd.cfg]; exact ho⟩
      rcases List.mem_cons.1 he with rfl | he
      · exact absurd ho h
      · exact he

/-- The bits of a sprite whose row 0 is at framebuffer row `y0` and at address `base`. -/
def rowBits (s : State) (base x0 y0 px py : Nat) : Bool :=
  (s.byteAt (base + (py - y0))).getLsbD (7 - (px - x0))

/-- The eight columns. -/
theorem spriteCols_mem (c : Nat) : c ∈ spriteCols ↔ c < 8 := by
  simp only [spriteCols, List.mem_cons, List.not_mem_nil, or_false]
  omega

/-- Rows `row` to `row + count - 1`, all inside memory and the framebuffer. -/
theorem State.drawRows_inside (x0 y0 : Nat) (count : Nat) : ∀ (row : Nat) (s : State),
    (count ≠ 0 → s.i.toNat + (row + count - 1) ≤ 0xFFF ∧ x0 + 7 < s.cfg.fbW ∧ y0 + (row + count - 1) < s.cfg.fbH) →
    ∃ t : State, State.drawRows x0 y0 count row s = .ok t ∧
      Drawn s t (fun qx qy => x0 ≤ qx ∧ qx < x0 + 8 ∧ y0 + row ≤ qy ∧ qy < y0 + row + count)
        (rowBits s s.i.toNat x0 y0) := by
  induction count with
  | zero =>
    exact fun row s _ => ⟨s, rfl, (Drawn.refl s fun _ _ => false).congr (fun _ _ => by simp only [false_iff]; omega)
      (fun _ _ h => h.elim)⟩
  | succ count ih =>
    intro row s h
    obtain ⟨hmem, hx, hy⟩ := h (by omega)
    obtain ⟨m, hm, hd⟩ := State.drawCols_inside (s.byteAt (s.i.toNat + row)) x0 (y0 + row)
      (rowBits s s.i.toNat x0 y0) spriteCols s (by decide)
      (fun c hc => by
        have := (spriteCols_mem c).1 hc
        refine ⟨by omega, ?_⟩
        simp only [rowBits, spriteBit, Nat.add_sub_cancel_left])
      (by omega)
    have hi : m.i = s.i := by rw [hd.frame]
    obtain ⟨t, ht, he⟩ := ih (row + 1) m (fun hc => by rw [hi, hd.cfg]; omega)
    have hbits : ∀ px py, rowBits m m.i.toNat x0 y0 px py = rowBits s s.i.toNat x0 y0 px py := by
      intro px py
      rw [hd.frame]
      rfl
    refine ⟨t, ?_, (hd.trans (he.congr (fun _ _ => Iff.rfl) fun px py _ => hbits px py) ?_).congr ?_
      (fun _ _ _ => rfl)⟩
    · simp only [State.drawRows, State.eaI]
      rw [State.memRead_inRange _ (by omega)]
      simp only [hm]
      exact ht
    · rintro qx qy ⟨-, rfl⟩ ⟨-, -, h, -⟩
      omega
    · intro qx qy
      constructor
      · rintro (⟨⟨c, hc, rfl⟩, rfl⟩ | h)
        · have := (spriteCols_mem c).1 hc
          omega
        · omega
      · intro h
        by_cases hq : qy = y0 + row
        · exact .inl ⟨⟨qx - x0, (spriteCols_mem _).2 (by omega), by omega⟩, hq⟩
        · exact .inr (by omega)

/-- A draw that leaves memory or the framebuffer in some row meets MemRange or FbRange: `memRow` and `fbRow` are the first
row out of either, and a row's byte comes before its pixels. -/
theorem State.drawRows_outside (x0 y0 : Nat) (count : Nat) : ∀ (row : Nat) (s : State) (memRow fbRow : Nat),
    memRow = 0x1000 - s.i.toNat →
    fbRow = (if x0 + 7 ≥ s.cfg.fbW then 0 else s.cfg.fbH - y0) →
    (row ≤ memRow ∨ row = 0) → (row ≤ fbRow ∨ row = 0) → min memRow fbRow < row + count →
    State.drawRows x0 y0 count row s = .error (if memRow ≤ fbRow then .memRange else .fbRange) := by
  induction count with
  | zero => exact fun row s memRow fbRow _ _ _ _ _ => absurd ‹min memRow fbRow < row + 0› (by omega)
  | succ count ih =>
    intro row s memRow fbRow hm hf hrm hrf hlt
    simp only [State.drawRows, State.eaI]
    by_cases h : s.i.toNat + row ≤ 0xFFF
    · rw [State.memRead_inRange _ h]
      simp only
      by_cases ho : s.cfg.fbW ≤ x0 + 7 ∨ s.cfg.fbH ≤ y0 + row
      · rw [State.drawCols_outside _ _ _ _ _ ⟨7, by decide, ho⟩]
        have : ¬ memRow ≤ fbRow := by
          split at hf <;> omega
        simp only [if_neg this]
      · obtain ⟨m, hdm, hd⟩ := State.drawCols_inside (s.byteAt (s.i.toNat + row)) x0 (y0 + row)
          (rowBits s s.i.toNat x0 y0) spriteCols s (by decide)
          (fun c hc => by
            have := (spriteCols_mem c).1 hc
            refine ⟨by omega, ?_⟩
            simp only [rowBits, spriteBit, Nat.add_sub_cancel_left])
          (by omega)
        rw [hdm]
        have hi : m.i = s.i := by rw [hd.frame]
        refine ih (row + 1) m memRow fbRow (by rw [hi]; exact hm) (by rw [hd.cfg]; exact hf) ?_ ?_ (by omega)
        · omega
        · rw [if_neg (by omega)] at hf
          omega
    · rw [State.memRead_outOfRange _ (by omega)]
      have : memRow ≤ fbRow := by omega
      simp only [if_pos this]

end Sys2Proof.Machine
end

