-- ==== Sys2Proof/Laws/PerInstr.lean ====
section
/-! SUPPORT. Statements about every instruction as syntax, one lemma per constructor. Family `HitsItsRow`: the encoded word
has the fixed bits that the opcode table gives the instruction. -/

namespace Sys2Proof.Laws.HitsItsRow

/-- The `match` and `mask` columns of opcode_table.json. -/
def tableRow : Instr → Word × Word
  | .cls => (0x00E0, 0xFFFF)
  | .ret => (0x00EE, 0xFFFF)
  | .jp _ => (0x1000, 0xF000)
  | .call _ => (0x2000, 0xF000)
  | .seImm _ _ => (0x3000, 0xF000)
  | .sneImm _ _ => (0x4000, 0xF000)
  | .ldImm _ _ => (0x6000, 0xF000)
  | .addImm _ _ => (0x7000, 0xF000)
  | .ldReg _ _ => (0x8000, 0xF00F)
  | .andReg _ _ => (0x8002, 0xF00F)
  | .addReg _ _ => (0x8004, 0xF00F)
  | .subReg _ _ => (0x8005, 0xF00F)
  | .ldI _ => (0xA000, 0xF000)
  | .rnd _ _ => (0xC000, 0xF000)
  | .drw _ _ _ => (0xD000, 0xF000)
  | .skp _ => (0xE09E, 0xF0FF)
  | .sknp _ => (0xE0A1, 0xF0FF)
  | .ldVxDT _ => (0xF007, 0xF0FF)
  | .ldDTVx _ => (0xF015, 0xF0FF)
  | .ldSTVx _ => (0xF018, 0xF0FF)
  | .addI _ => (0xF01E, 0xF0FF)
  | .ldF _ => (0xF029, 0xF0FF)
  | .ldB _ => (0xF033, 0xF0FF)
  | .ldRegs _ => (0xF065, 0xF0FF)

/-- The encoded word shows its row's fixed bits under its row's mask (30_encoding.md rule R64). -/
def Statement (i : Instr) : Prop := encodeWord i &&& (tableRow i).2 = (tableRow i).1

/-- The bits of a four-nibble mask see an `op, nnn` word only in its op. -/
theorem formatNNN_op (op : BitVec 4) (nnn : BitVec 12) : formatNNN op nnn &&& 0xF000#16 = op ++ 0#12 := by
  apply BitVec.eq_of_getLsbD_eq
  intro i hi
  simp only [formatNNN, BitVec.getLsbD_and, BitVec.getLsbD_append]
  interval_cases i <;> simp

/-- The same for `op, x, nn`. -/
theorem formatXNN_op (op : BitVec 4) (x : Reg) (nn : Byte) : formatXNN op x nn &&& 0xF000#16 = op ++ 0#12 := by
  apply BitVec.eq_of_getLsbD_eq
  intro i hi
  simp only [formatXNN, BitVec.getLsbD_and, BitVec.getLsbD_append]
  interval_cases i <;> simp

/-- The same for `op, x, y, n`. -/
theorem formatXYN_op (op : BitVec 4) (x y : Reg) (n : BitVec 4) : formatXYN op x y n &&& 0xF000#16 = op ++ 0#12 := by
  apply BitVec.eq_of_getLsbD_eq
  intro i hi
  simp only [formatXYN, BitVec.getLsbD_and, BitVec.getLsbD_append]
  interval_cases i <;> simp

/-- Group 8: the mask sees op and the minor opcode. -/
theorem formatXYN_op_minor (op : BitVec 4) (x y : Reg) (n : BitVec 4) :
    formatXYN op x y n &&& 0xF00F#16 = op ++ 0#8 ++ n := by
  apply BitVec.eq_of_getLsbD_eq
  intro i hi
  simp only [formatXYN, BitVec.getLsbD_and, BitVec.getLsbD_append]
  interval_cases i <;> simp

/-- Groups E and F: the mask sees op and the low byte. -/
theorem formatXNN_op_minor (op : BitVec 4) (x : Reg) (nn : Byte) :
    formatXNN op x nn &&& 0xF0FF#16 = op ++ 0#4 ++ nn := by
  apply BitVec.eq_of_getLsbD_eq
  intro i hi
  simp only [formatXNN, BitVec.getLsbD_and, BitVec.getLsbD_append]
  interval_cases i <;> simp

theorem cls : Statement .cls := by unfold Statement; decide

theorem ret : Statement .ret := by unfold Statement; decide

theorem jp (nnn : BitVec 12) : Statement (.jp nnn) := formatNNN_op _ _

theorem call (nnn : BitVec 12) : Statement (.call nnn) := formatNNN_op _ _

theorem seImm (x : Reg) (nn : Byte) : Statement (.seImm x nn) := formatXNN_op _ _ _

theorem sneImm (x : Reg) (nn : Byte) : Statement (.sneImm x nn) := formatXNN_op _ _ _

theorem ldImm (x : Reg) (nn : Byte) : Statement (.ldImm x nn) := formatXNN_op _ _ _

theorem addImm (x : Reg) (nn : Byte) : Statement (.addImm x nn) := formatXNN_op _ _ _

theorem ldReg (x y : Reg) : Statement (.ldReg x y) := formatXYN_op_minor _ _ _ _

theorem andReg (x y : Reg) : Statement (.andReg x y) := formatXYN_op_minor _ _ _ _

theorem addReg (x y : Reg) : Statement (.addReg x y) := formatXYN_op_minor _ _ _ _

theorem subReg (x y : Reg) : Statement (.subReg x y) := formatXYN_op_minor _ _ _ _

theorem ldI (nnn : BitVec 12) : Statement (.ldI nnn) := formatNNN_op _ _

theorem rnd (x : Reg) (nn : Byte) : Statement (.rnd x nn) := formatXNN_op _ _ _

theorem drw (x y : Reg) (n : BitVec 4) : Statement (.drw x y n) := formatXYN_op _ _ _ _

theorem skp (x : Reg) : Statement (.skp x) := formatXNN_op_minor _ _ _

theorem sknp (x : Reg) : Statement (.sknp x) := formatXNN_op_minor _ _ _

theorem ldVxDT (x : Reg) : Statement (.ldVxDT x) := formatXNN_op_minor _ _ _

theorem ldDTVx (x : Reg) : Statement (.ldDTVx x) := formatXNN_op_minor _ _ _

theorem ldSTVx (x : Reg) : Statement (.ldSTVx x) := formatXNN_op_minor _ _ _

theorem addI (x : Reg) : Statement (.addI x) := formatXNN_op_minor _ _ _

theorem ldF (x : Reg) : Statement (.ldF x) := formatXNN_op_minor _ _ _

theorem ldB (x : Reg) : Statement (.ldB x) := formatXNN_op_minor _ _ _

theorem ldRegs (x : Reg) : Statement (.ldRegs x) := formatXNN_op_minor _ _ _

end Sys2Proof.Laws.HitsItsRow
end

