-- ==== Sys2Proof/Laws/Step.lean ====
section
/-! SUPPORT. What one tick can do, said once. -/

namespace Sys2Proof.Machine

@[simp] theorem State.afterExec_stopped (i : Instr) (t : State) (h : t.run = .stopped) : t.afterExec i = t := by
  simp [State.afterExec, h]

theorem State.afterExec_running (i : Instr) (t : State) (h : t.run = .running) :
    t.afterExec i = { t.tickTimers with render := signalsRender i } := by
  simp [State.afterExec, h]

@[simp] theorem State.afterExec_run (i : Instr) (t : State) : (t.afterExec i).run = t.run := by
  cases h : t.run <;> simp [State.afterExec, h]

theorem step_stopped {s : State} (h : s.run = .stopped) : step s = .next s.lowerRender.awaitTick := by
  simp [step, State.tick, State.iteration, h]

theorem step_stopRequest {s : State} (h : s.run = .running) (hs : s.stopReq = true) :
    step s = .next (State.awaitTick { s.lowerRender with run := .stopped }) := by
  simp [step, State.tick, State.iteration, h, hs]

theorem step_fetchRange {s : State} (h : s.run = .running) (hs : s.stopReq = false) (hp : 0xFFE < s.pc.toNat) :
    step s = .next (s.lowerRender.faulted .fetchRange).awaitTick := by
  simp [step, State.tick, State.iteration, State.phases, h, hs,
    State.fetch16_outOfRange s.lowerRender (by simpa using hp)]

/-- The word the next step fetches. -/
def State.nextWord (s : State) : Word := wordOfBytes (s.byteAt s.pc.toNat) (s.byteAt (s.pc.toNat + 1))

theorem State.nextInstr_inRange {s : State} (hp : s.pc.toNat ≤ 0xFFE) : s.nextInstr = decodeWord s.nextWord := by
  have : ¬ s.pc.toNat > 0xFFE := by omega
  simp only [State.nextInstr, if_neg this, decode, State.nextWord]
  cases decodeWord (wordOfBytes (s.byteAt s.pc.toNat) (s.byteAt (s.pc.toNat + 1))) <;> rfl

theorem State.nextInstr_pc {s : State} {i : Instr} (h : s.nextInstr = some i) : s.pc.toNat ≤ 0xFFE := by
  by_contra hn
  simp [State.nextInstr, show s.pc.toNat > 0xFFE by omega] at h

theorem step_notImplemented {s : State} (h : s.run = .running) (hs : s.stopReq = false) (hp : s.pc.toNat ≤ 0xFFE)
    (hi : s.nextInstr = none) : step s = .next (s.lowerRender.faulted .notImplemented).awaitTick := by
  rw [State.nextInstr_inRange hp] at hi
  simp only [State.nextWord] at hi
  simp [step, State.tick, State.iteration, State.phases, h, hs,
    State.fetch16_inRange s.lowerRender (by simpa using hp), hi]

/-- The step of a decoded instruction. -/
theorem step_exec {s : State} {i : Instr} (h : s.run = .running) (hs : s.stopReq = false)
    (hi : s.nextInstr = some i) :
    step s =
      match exec i s.lowerRender with
      | .next t => .next (t.afterExec i).awaitTick
      | .fault r => .fault r
      | .refused r => .refused r := by
  have hp := State.nextInstr_pc hi
  rw [State.nextInstr_inRange hp] at hi
  simp only [State.nextWord] at hi
  simp only [step, State.tick, State.iteration, State.phases, State.lowerRender_run, State.lowerRender_stopReq, h, hs,
    State.fetch16_inRange s.lowerRender (by simpa using hp), State.byteAt_lowerRender, State.lowerRender_pc, hi,
    Bool.false_eq_true, if_false]
  cases exec i s.lowerRender <;> rfl

/-- Everything a tick can do when it has a next state. -/
theorem step_cases {s t : State} (h : step s = .next t) :
    (s.run = .stopped ∧ t = s.lowerRender.awaitTick) ∨
    (s.run = .running ∧ s.stopReq = true ∧ t = State.awaitTick { s.lowerRender with run := .stopped }) ∨
    (s.run = .running ∧ s.stopReq = false ∧ 0xFFE < s.pc.toNat ∧
      t = (s.lowerRender.faulted .fetchRange).awaitTick) ∨
    (s.run = .running ∧ s.stopReq = false ∧ s.pc.toNat ≤ 0xFFE ∧ s.nextInstr = none ∧
      t = (s.lowerRender.faulted .notImplemented).awaitTick) ∨
    (∃ (i : Instr) (m : State), s.about i ∧ s.pc.toNat ≤ 0xFFE ∧ exec i s.lowerRender = .next m ∧
      t = (m.afterExec i).awaitTick) := by
  cases hr : s.run with
  | stopped =>
    rw [step_stopped hr] at h
    exact .inl ⟨rfl, by simpa using h.symm⟩
  | running =>
    cases hs : s.stopReq with
    | true =>
      rw [step_stopRequest hr hs] at h
      exact .inr (.inl ⟨rfl, rfl, by simpa using h.symm⟩)
    | false =>
      by_cases hp : 0xFFE < s.pc.toNat
      · rw [step_fetchRange hr hs hp] at h
        exact .inr (.inr (.inl ⟨rfl, rfl, hp, by simpa using h.symm⟩))
      · cases hi : s.nextInstr with
        | none =>
          rw [step_notImplemented hr hs (by omega) hi] at h
          exact .inr (.inr (.inr (.inl ⟨rfl, rfl, by omega, rfl, by simpa using h.symm⟩)))
        | some i =>
          rw [step_exec hr hs hi] at h
          cases he : exec i s.lowerRender with
          | next m =>
            rw [he] at h
            exact .inr (.inr (.inr (.inr ⟨i, m, ⟨hr, hs, hi⟩, by omega, he, by simpa using h.symm⟩)))
          | fault r => simp [he] at h
          | refused r => simp [he] at h

end Sys2Proof.Machine
end

