-- ==== Sys2Proof/Laws/Run.lean ====
section
/-! SUPPORT. What a run does at its end (70_reset_and_hazards.md rule R186), and why FAULT tells how it ended. -/

namespace Sys2Proof.Machine

/-- Where an execute phase does not stop the machine, FAULT is as it was. -/
theorem exec_fault {i : Instr} {s t : State} (h : exec i s = .next t) : t.run = .stopped ∨ t.fault = s.fault := by
  have settled : ∀ r : Except Cause State, (∀ u, r = .ok u → u.fault = s.fault) → s.settle r = .next t →
      t.run = .stopped ∨ t.fault = s.fault := by
    intro r hr h
    cases r with
    | ok u => rw [State.settle_ok] at h; cases h; exact .inr (hr _ rfl)
    | error c => rw [State.settle_error] at h; cases h; exact .inl rfl
  cases i with
  | ret =>
    rcases State.pop_next (k := fun site u => u.setPC (site + 2)) h with ⟨n, hn, hs, rfl⟩ | ⟨_, rfl⟩
    · exact .inr rfl
    · exact .inl rfl
  | call nnn =>
    rcases State.push_next (k := fun u => u.setPC (addr16 nnn)) h with ⟨hs, rfl⟩ | ⟨_, rfl⟩
    · exact .inr rfl
    · exact .inl rfl
  | addReg x y => cases h; exact .inr (by simp)
  | subReg x y => cases h; exact .inr (by simp)
  | skp x =>
    refine settled _ ?_ h
    intro u hu
    cases hk : s.readKey (s.getV x).toNat <;> simp [hk, Except.map] at hu
    rw [← hu]; rfl
  | sknp x =>
    refine settled _ ?_ h
    intro u hu
    cases hk : s.readKey (s.getV x).toNat <;> simp [hk, Except.map] at hu
    rw [← hu]; rfl
  | drw x y n =>
    refine settled _ ?_ h
    intro u hu
    by_cases hr : drawInRange s x y n
    · obtain ⟨m, hm, hd⟩ := State.drawRows_inside (s.getV x).toNat (s.getV y).toNat n.toNat 0 s (by
        simp only [drawInRange, State.eaI] at hr; omega)
      rw [hm] at hu
      simp only [Except.map, Except.ok.injEq] at hu
      rw [← hu, hd.frame]; rfl
    · simp only [drawInRange, State.eaI, not_or] at hr
      rw [State.drawRows_outside (s.getV x).toNat (s.getV y).toNat n.toNat 0 s _ _ rfl rfl (.inr rfl) (.inr rfl)
        (by split <;> omega)] at hu
      cases hu
  | ldB x =>
    cases hv : s.cfg.fx33 with
    | refuse => simp only [exec, execLdB, hv] at h; cases h; exact .inl rfl
    | intended =>
      simp only [exec, execLdB, hv] at h
      refine settled _ ?_ h
      intro u hu
      by_cases hi : s.i.toNat ≤ 0xFFD
      · rw [State.storeDigits_inRange s _ hi] at hu
        simp only [Except.map, Except.ok.injEq] at hu
        rw [← hu]; rfl
      · rw [State.storeDigits_outOfRange s _ (by omega)] at hu
        cases hu
  | ldRegs x =>
    cases hv : s.cfg.fx65 with
    | refuse => simp only [exec, execLdRegs, hv] at h; cases h; exact .inl rfl
    | intended =>
      simp only [exec, execLdRegs, hv] at h
      refine settled _ ?_ h
      intro u hu
      obtain ⟨-, m, hm, -, -, -, hf⟩ | ⟨-, hm⟩ := State.fillRegs_cases x s
      · rw [hm] at hu
        simp only [Except.map, Except.ok.injEq] at hu
        rw [← hu, hf]; rfl
      · rw [hm] at hu
        cases hu
  | _ => cases h; exact .inr rfl

/-- A tick that does not raise a fault leaves FAULT as it was. -/
theorem step_fault {s t : State} (h : step s = .next t) : t.run = .stopped ∨ t.fault = s.fault := by
  rcases step_cases h with ⟨_, rfl⟩ | ⟨_, _, rfl⟩ | ⟨_, _, _, rfl⟩ | ⟨_, _, _, _, rfl⟩ | ⟨i, m, _, _, he, rfl⟩
  · exact .inr rfl
  · exact .inr rfl
  · exact .inl (by simp)
  · exact .inl (by simp)
  · rcases exec_fault he with hm | hm
    · exact .inl (by simpa using hm)
    · cases hr : m.run with
      | stopped => exact .inl (by simpa using hr)
      | running =>
        rw [State.afterExec_running i m hr]
        exact .inr (by simpa using hm)

/-- While a run from a state without a fault is RUNNING, FAULT is NONE: a FAULT at its end is of this run
(R23, R186). -/
theorem RunFrom.fault_none {s t : State} (h : RunFrom s t) (hs : s.fault = .none) :
    t.run = .running → t.fault = .none := by
  induction h with
  | here => exact fun _ => hs
  | tick _ running next ih =>
    intro hu
    rcases step_fault next with hn | hn
    · rw [hn] at hu; cases hu
    · exact hn.trans (ih running)
  | stop _ running ih => exact fun _ => ih running
  | writeKey _ running k b ih => exact fun _ => ih running

/-- R186 (c): at a jump to itself, with no stop requested, a tick changes nothing of the machine but the timers. -/
theorem State.finished_selfJump_step {s : State} {addr : BitVec 12} (h : s.finished (.selfJump addr))
    (hs : s.stopReq = false) : step s = .next s.lowerRender.tickTimers.awaitTick := by
  obtain ⟨hr, hp, hi⟩ := h
  have hj : exec (.jp addr) s.lowerRender = .next s.lowerRender := by
    show Host.Outcome.next (s.lowerRender.setPC (addr16 addr)) = _
    rw [← hp]; rfl
  rw [step_exec hr hs hi, hj]
  simp only [State.afterExec_running (.jp addr) s.lowerRender hr]
  rfl

/-- R186 (c): "once per tick for ever": the program is still finished after the tick. -/
theorem State.finished_selfJump_stays {s t : State} {addr : BitVec 12} (h : s.finished (.selfJump addr))
    (hs : s.stopReq = false) (ht : step s = .next t) : t.finished (.selfJump addr) ∧ t.stopReq = false := by
  rw [State.finished_selfJump_step h hs] at ht
  cases ht
  exact ⟨h, hs⟩

/-- R186 (b): an unimplemented word at `addr` ends the run there, and a claim that allows that stop counts it as none gone
wrong. -/
theorem State.finished_notImplemented_step {s : State} {addr : BitVec 12} (hr : s.run = .running)
    (hs : s.stopReq = false) (hp : s.pc = addr16 addr) (hw : s.pc.toNat ≤ 0xFFE) (hi : s.nextInstr = none) :
    ∃ t : State, step s = .next t ∧ t.finished (.notImplemented addr) ∧ t.runWentWrong (some addr) = false := by
  have hf : State.finished (s.lowerRender.faulted .notImplemented).awaitTick (.notImplemented addr) := by
    rw [State.faulted_precise _ _ rfl]
    exact ⟨rfl, rfl, hp⟩
  refine ⟨_, step_notImplemented hr hs hw hi, hf, ?_⟩
  have he : State.runEnd (s.lowerRender.faulted .notImplemented).awaitTick = some (.fault .notImplemented) := rfl
  simp only [State.runWentWrong, he]
  rw [decide_eq_true hf]
  rfl

end Sys2Proof.Machine
end

