-- ==== Sys2Proof/Tests/Slice0.lean ====
section
/-! SUPPORT. Tests of the decoder against words written out from 30_encoding.md, one-step tests from the vectors of
95_test_vectors.md (named by their id there), and a witness for the hypotheses of every statement. -/

namespace Sys2Proof.Tests

open Sys2Proof.Machine

/-! ## Decoding: one word per instruction, bit by bit from the row of R64: op, then the fields -/

theorem test_decode_00E0 : decodeTableWord 16 0b0000000011100000 = some .cls := by decide
theorem test_decode_00EE : decodeTableWord 16 0b0000000011101110 = some .ret := by decide
-- 1nnn, nnn = 0010 0011 0100
theorem test_decode_1nnn : decodeTableWord 16 0b0001001000110100 = some (.jp 0x234) := by decide
-- 2nnn, nnn = 1111 1111 1110
theorem test_decode_2nnn : decodeTableWord 16 0b0010111111111110 = some (.call 0xFFE) := by decide
-- 3xnn, x = 0011, nn = 0010 1010
theorem test_decode_3xnn : decodeTableWord 16 0b0011001100101010 = some (.seImm 3 0x2A) := by decide
-- 4xnn, x = 1111, nn = 1000 0001
theorem test_decode_4xnn : decodeTableWord 16 0b0100111110000001 = some (.sneImm 15 0x81) := by decide
-- 6xnn, x = 0011, nn = 0010 1010 (the example of R69)
theorem test_decode_6xnn : decodeTableWord 16 0b0110001100101010 = some (.ldImm 3 0x2A) := by decide
-- 7xnn, x = 0010, nn = 1111 0000
theorem test_decode_7xnn : decodeTableWord 16 0b0111001011110000 = some (.addImm 2 0xF0) := by decide
-- 8xy0, x = 0001, y = 1110
theorem test_decode_8xy0 : decodeTableWord 16 0b1000000111100000 = some (.ldReg 1 14) := by decide
-- 8xy2, x = 1110, y = 0001
theorem test_decode_8xy2 : decodeTableWord 16 0b1000111000010010 = some (.andReg 14 1) := by decide
-- 8xy4, x = 1010, y = 0101
theorem test_decode_8xy4 : decodeTableWord 16 0b1000101001010100 = some (.addReg 10 5) := by decide
-- 8xy5, x = 0101, y = 1010
theorem test_decode_8xy5 : decodeTableWord 16 0b1000010110100101 = some (.subReg 5 10) := by decide
-- Annn, nnn = 0010 1111 0000
theorem test_decode_Annn : decodeTableWord 16 0b1010001011110000 = some (.ldI 0x2F0) := by decide
-- Cxnn, x = 0011, nn = 0000 1111
theorem test_decode_Cxnn : decodeTableWord 16 0b1100001100001111 = some (.rnd 3 0x0F) := by decide
-- Dxyn, x = 1010, y = 1011, n = 0111
theorem test_decode_Dxyn : decodeTableWord 16 0b1101101010110111 = some (.drw 10 11 7) := by decide
-- Ex9E, x = 0101
theorem test_decode_Ex9E : decodeTableWord 16 0b1110010110011110 = some (.skp 5) := by decide
-- ExA1, x = 0110
theorem test_decode_ExA1 : decodeTableWord 16 0b1110011010100001 = some (.sknp 6) := by decide
-- Fx07, x = 0111
theorem test_decode_Fx07 : decodeTableWord 16 0b1111011100000111 = some (.ldVxDT 7) := by decide
-- Fx15, x = 1000
theorem test_decode_Fx15 : decodeTableWord 16 0b1111100000010101 = some (.ldDTVx 8) := by decide
-- Fx18, x = 1001
theorem test_decode_Fx18 : decodeTableWord 16 0b1111100100011000 = some (.ldSTVx 9) := by decide
-- Fx1E, x = 1010
theorem test_decode_Fx1E : decodeTableWord 16 0b1111101000011110 = some (.addI 10) := by decide
-- Fx29, x = 1011
theorem test_decode_Fx29 : decodeTableWord 16 0b1111101100101001 = some (.ldF 11) := by decide
-- Fx33, x = 1100
theorem test_decode_Fx33 : decodeTableWord 16 0b1111110000110011 = some (.ldB 12) := by decide
-- Fx65, x = 1101
theorem test_decode_Fx65 : decodeTableWord 16 0b1111110101100101 = some (.ldRegs 13) := by decide

/-- Neighbours of implemented words that match no row (R66). -/
theorem test_decode_unimplemented :
    [0x0000, 0x00E1, 0x01E0, 0x5AB0, 0x8011, 0x8013, 0x8016, 0x801E, 0x9010, 0xB123, 0xE09F, 0xE19D, 0xF00A, 0xF055].all
      (fun w => decodeTableWord 16 w == none) = true := by decide

/-! ## WellFormed: R63 leaves no ill-formed term, so the smoke test is at the ends of every operand's range -/

theorem test_wellFormed_smoke :
    [Instr.jp 0x000, .call 0xFFF, .ldI 0xFFF, .seImm 15 0xFF, .sneImm 0 0x00, .drw 15 15 15, .drw 0 0 0, .ldReg 15 0,
     .subReg 0 15, .ldRegs 15, .skp 15, .cls].all Instr.wellFormed = true := by decide

/-! ## One step -/

/-- `s` with registers preset. -/
def withRegs (s : State) (l : List (Reg × Byte)) : State := l.foldl (fun t p => t.setV p.1 p.2) s

/-- `s` with bytes preset from `a` on. -/
def withBytes (s : State) (a : Nat) (bytes : List Byte) : State :=
  { s with mem := s.mem.writeBytes (initialByte s.cfg) a bytes }

/-- The state after one step on the table word `w` (`s` itself if there is none). -/
def after (s : State) (w : Nat) : State :=
  match step (s.withFetchWord 16 w) with
  | .next t => t
  | .fault _ => s
  | .refused _ => s

/-- Did the step on `w` stop the machine with `c`, its PC still on the instruction? -/
def stopsWith (s : State) (w : Nat) (c : Cause) : Bool :=
  (after s w).fault == c && (after s w).run == .stopped

-- F2
theorem test_00E0_clears : (after (State.reset.setPixel 5 6 pixOn) 0x00E0).fb = [] ∧
    (after State.reset 0x00E0).render = true := by decide
-- T8, T9
theorem test_00EE_returns :
    let t := after { State.reset with sp := 1, stk := State.reset.stk.set 0 0x204 } 0x00EE
    t.pc = 0x206 ∧ t.sp = 0 ∧ t.stk[0] = 0x204 := by decide
theorem test_00EE_underflow : stopsWith State.reset 0x00EE .stackUnderflow = true := by decide
-- T1, T3
theorem test_1nnn_jumps : (after State.reset 0x1234).pc = 0x234 ∧ (after State.reset 0x1FFF).pc = 0xFFF := by decide
-- T6, T7
theorem test_2nnn_last_entry :
    let t := after { State.reset with sp := 23 } 0x2300
    t.pc = 0x300 ∧ t.sp = 24 ∧ t.stk[23] = 0x200 := by decide
theorem test_2nnn_overflow : stopsWith { State.reset with sp := 24 } 0x2300 .stackOverflow = true := by decide
-- T11, T12
theorem test_3xnn_skips : (after (State.reset.setV 3 0x2A) 0x332A).pc = 0x204 ∧
    (after (State.reset.setV 3 0x2B) 0x332A).pc = 0x202 := by decide
-- T13, T14
theorem test_4xnn_skips : (after (State.reset.setV 3 0x2A) 0x432A).pc = 0x202 ∧
    (after State.reset 0x432A).pc = 0x204 := by decide
-- A1, A2
theorem test_6xnn_loads : (after State.reset 0x6005).getV 0 = 0x05 ∧ (after State.reset 0x6FFF).getV 15 = 0xFF := by
  decide
-- A3
theorem test_7xnn_wraps :
    let t := after (withRegs State.reset [(2, 0xF0)]) 0x7220
    t.getV 2 = 0x10 ∧ t.getV 15 = 0x00 ∧ t.pc = 0x202 := by decide
-- A5
theorem test_7xnn_no_carry : (after (withRegs State.reset [(15, 0xFF)]) 0x7F01).getV 15 = 0x00 := by decide
-- A6
theorem test_8xy0_copies :
    let t := after (withRegs State.reset [(1, 0x33)]) 0x8010
    t.getV 0 = 0x33 ∧ t.getV 1 = 0x33 := by decide
-- A7
theorem test_8xy2_ands : (after (withRegs State.reset [(0, 0xCC), (1, 0xAA)]) 0x8012).getV 0 = 0x88 := by decide
-- A10, A13
theorem test_8xy4_boundary :
    let t := after (withRegs State.reset [(0, 0x80), (1, 0x7F), (15, 1)]) 0x8014
    t.getV 0 = 0xFF ∧ t.getV 15 = 0x00 := by decide
theorem test_8xy4_into_flag :
    let s := withRegs State.reset [(15, 0xF0), (1, 0x20)]
    (after s 0x8F14).getV 15 = 0x10 ∧
    (after { s with cfg := { s.cfg with aliasOrder := .sequential } } 0x8F14).getV 15 = 0x21 := by decide
-- A16, A22
theorem test_8xy5_borrows :
    let t := after (withRegs State.reset [(0, 0x03), (1, 0x05)]) 0x8015
    t.getV 0 = 0xFE ∧ t.getV 15 = 0x00 := by decide
theorem test_8xy5_of_flag :
    let s := withRegs State.reset [(0, 0x05), (15, 0x07)]
    (after s 0x80F5).getV 0 = 0xFE ∧
    (after { s with cfg := { s.cfg with aliasOrder := .sequential } } 0x80F5).getV 0 = 0x05 := by decide
-- M1
theorem test_Annn_loads : (after { State.reset with i := 0xFFFF } 0xA2F0).i = 0x02F0 := by decide
-- A23, A24
theorem test_Cxnn_masks : (after { State.reset with rnd := 0xB7 } 0xC30F).getV 3 = 0x07 ∧
    (after { State.reset with rnd := 0xB7 } 0xC300).getV 3 = 0x00 := by decide
-- F9
theorem test_Dxyn_collides :
    let t := after (withBytes ({ State.reset with i := 0x300 }.setPixel 1 0 pixOn) 0x300 [0x80]) 0xD011
    t.pixel 0 0 = 0xFF ∧ t.pixel 1 0 = 0x00 ∧ t.getV 15 = 0x01 ∧ t.render = true := by decide
-- F5
theorem test_Dxyn_off_the_edge :
    stopsWith (withRegs { State.reset with i := 0x050 } [(0, 57)]) 0xD015 .fbRange = true := by decide
-- K4 and K1's index
theorem test_Ex9E_skips :
    let s := withRegs State.reset [(5, 0x0A)]
    (after (s.writeKey 10 true) 0xE59E).pc = 0x204 ∧ (after (s.writeKey 5 true) 0xE59E).pc = 0x202 := by decide
-- K5
theorem test_Ex9E_range : stopsWith (withRegs State.reset [(0, 0x10)]) 0xE09E .keyRange = true := by decide
-- K3, K4
theorem test_ExA1_skips :
    let s := withRegs State.reset [(5, 0x0A)]
    (after s 0xE5A1).pc = 0x204 ∧ (after (s.writeKey 10 true) 0xE5A1).pc = 0x202 := by decide
-- K7
theorem test_Fx07_before_tick :
    let t := after { State.reset with dt := 5 } 0xF307
    t.getV 3 = 5 ∧ t.dt = 4 := by decide
-- K12
theorem test_Fx15_loads_and_ticks :
    let t := after (withRegs { State.reset with st := 1 } [(0, 0xFF)]) 0xF015
    t.dt = 0xFE ∧ t.st = 0 := by decide
-- K13
theorem test_Fx18_loads_and_ticks : (after (withRegs State.reset [(0, 2)]) 0xF018).st = 1 := by decide
-- M4
theorem test_Fx1E_wraps :
    let t := after (withRegs { State.reset with i := 0xFFFF } [(0, 1)]) 0xF01E
    t.i = 0x0000 ∧ t.getV 15 = 0 ∧ t.pc = 0x202 := by decide
-- M7, M9
theorem test_Fx29_glyph : (after (withRegs State.reset [(0, 0x0F)]) 0xF029).i = 0x009B ∧
    (after (withRegs State.reset [(0, 0xFF)]) 0xF029).i = 0x054B := by decide
-- M13, M14
theorem test_Fx33_last_address :
    let t := after (withRegs { State.reset with i := 0xFFD } [(0, 255)]) 0xF033
    t.byteAt 0xFFD = 2 ∧ t.byteAt 0xFFE = 5 ∧ t.byteAt 0xFFF = 5 ∧ t.i = 0xFFD := by decide
theorem test_Fx33_range : stopsWith { State.reset with i := 0xFFE } 0xF033 .memRange = true := by decide
-- M15
theorem test_Fx65_loads :
    let t := after (withBytes (withRegs { State.reset with i := 0x300 } [(3, 0x44)]) 0x300 [1, 5, 6]) 0xF265
    t.getV 0 = 1 ∧ t.getV 1 = 5 ∧ t.getV 2 = 6 ∧ t.getV 3 = 0x44 ∧ t.i = 0x303 := by decide
-- M20
theorem test_Fx65_refused :
    stopsWith { State.reset with cfg := { defaultConfig with fx65 := .refuse } } 0xF065 .unmodelled = true := by decide
-- S8
theorem test_unimplemented_stops :
    let t := after (withRegs { State.reset with dt := 9 } [(3, 7)]) 0x5AB0
    t.run = .stopped ∧ t.fault = .notImplemented ∧ t.pc = 0x200 ∧ t.dt = 9 ∧ t.getV 3 = 7 := by decide

/-! ## The end of a run (R186): the finished self-jump of P1 and the zero word in zero-filled memory -/

/-- The state after a tick (`s` itself if there is none). -/
def ticked (s : State) : State :=
  match step s with
  | .next t => t
  | .fault _ => s
  | .refused _ => s

theorem test_run_finishes_by_self_jump :
    ∃ s, bootState [0x12, 0x00] = .next s ∧ s.finished (.selfJump 0x200) ∧ s.runEnd = none ∧
      (ticked s).finished (.selfJump 0x200) :=
  ⟨_, rfl, by decide, rfl, by decide⟩

theorem test_run_ends_by_fault :
    ∃ s, bootState [] = .next s ∧ (ticked s).runEnd = some (.fault .notImplemented) ∧
      (ticked s).runWentWrong none = true ∧ (ticked s).runWentWrong (some 0x200) = false ∧
      (ticked s).runWentWrong (some 0x202) = true :=
  ⟨_, rfl, by decide, by decide, by decide, by decide⟩

theorem test_run_ends_by_stop :
    ∃ s, bootState [0x12, 0x00] = .next s ∧ InRun [0x12, 0x00] (ticked s.stop) ∧
      (ticked s.stop).runEnd = some .stopRequest ∧ (ticked s.stop).runWentWrong none = false :=
  ⟨_, rfl, ⟨_, rfl, .tick (.stop .here rfl) rfl rfl⟩, by decide, by decide⟩

/-! ## Witnesses: for every statement with hypotheses, a state and operands that meet all of them together, at the ends of
the ranges its clauses name -/

/-- Reset, running, with nothing placed. -/
def running : State := { State.reset with run := .running }

/-- Reset with the word `w` as the next instruction. -/
def ready (w : Nat) : State := State.reset.withFetchWord 16 w

theorem witness_ResetHoldsTheTable : (0x04F < 0x050 ∨ 0x0A0 ≤ 0x04F) ∧ (0x0A0 < 0x050 ∨ 0x0A0 ≤ 0x0A0) := by decide

theorem witness_DecodeOfEncode :
    (Instr.drw 15 15 15).wellFormed = true ∧ (Instr.call 0xFFF).wellFormed = true := by decide

theorem witness_EncodeOfDecode : decodeWord 0xFF65 = some (.ldRegs 15) := by decide

theorem witness_OpcodeRowsDoNotOverlap :
    ∃ r ∈ opcodeRows, r.hits 0xFF65 = true :=
  ⟨⟨0xF065, 0xF0FF, fun w => .ldRegs (fieldX w)⟩, by simp [opcodeRows], by decide⟩

theorem witness_UnimplementedWordsByGroup :
    decodeWord 0x00E1 = none ∧ decodeWord 0x5FFF = none ∧ decodeWord 0x9000 = none ∧ decodeWord 0xBFFF = none ∧
    decodeWord 0x8FF6 = none ∧ decodeWord 0xE09F = none ∧ decodeWord 0xFF66 = none ∧ decodeWord 0x00EE ≠ none := by decide

theorem witness_FetchIsBigEndian :
    ({ State.reset with pc := 0xFFE } : State).pc.toNat ≤ 0xFFE ∧
    ({ State.reset with pc := 0xFFF } : State).pc.toNat > 0xFFE := by decide

theorem witness_StepRunsTheDecodedInstruction :
    (ready 0xD015).about (.drw 0 1 5) ∧ (Instr.drw 0 1 5).wellFormed = true := by decide

theorem witness_StoppedTickKeepsTheMachine : State.reset.run = .stopped := by decide

theorem witness_StopRequestStopsAtLoopTop : running.stop.run = .running ∧ running.stop.stopReq = true := by decide

theorem witness_UnimplementedWordStops :
    let s : State := { running with pc := 0xFFE }
    s.run = .running ∧ s.stopReq = false ∧ s.pc.toNat ≤ 0xFFE ∧ s.nextInstr = none := by decide

theorem witness_FetchRangeStops :
    let s : State := { running with pc := 0xFFF }
    s.run = .running ∧ s.stopReq = false ∧ s.pc.toNat > 0xFFE := by decide

theorem witness_TimersTickOncePerExecutedStep_running :
    ∃ t, (ready 0xF015).about (.ldDTVx 0) ∧ step (ready 0xF015) = .next t ∧ t.run = .running :=
  ⟨_, by decide, rfl, rfl⟩

theorem witness_TimersTickOncePerExecutedStep_stopped :
    ∃ t, (ready 0x00EE).about .ret ∧ step (ready 0x00EE) = .next t ∧ t.run = .stopped ∧ t.wentWrong = false :=
  ⟨_, by decide, rfl, rfl, rfl⟩

theorem witness_RenderSignalsExactlyDraws :
    ∃ t, (ready 0x00E0).about .cls ∧ step (ready 0x00E0) = .next t ∧ t.run = .running ∧ t.render = true :=
  ⟨_, by decide, rfl, rfl, rfl⟩

theorem witness_NextPCFollowsTheTable_running :
    ∃ t, running.run = .running ∧ exec (.jp 0xFFF) running = .next t ∧ t.run = .running := ⟨_, rfl, rfl, rfl⟩

theorem witness_NextPCFollowsTheTable_stopped :
    ∃ t, exec .ret running = .next t ∧ t.run = .stopped ∧ t.wentWrong = false := ⟨_, rfl, rfl, rfl⟩

theorem witness_ExecFaultsAsListed :
    ∃ t, running.run = .running ∧ exec .ret running = .next t ∧ t.run = .stopped ∧ t.wentWrong = false :=
  ⟨_, rfl, rfl, rfl, rfl⟩

theorem witness_StackAndKeyLimitsTrap :
    ({ State.reset with sp := 24 } : State).sp = 24 ∧ State.reset.sp = 0 ∧
    ((State.reset.setV 3 0x10).getV 3).toNat > 15 := by decide

theorem witness_IndexInstructionsTrap :
    let s : State := { State.reset with i := 0xFFE }
    let r : State := { State.reset with cfg := { defaultConfig with fx33 := .refuse, fx65 := .refuse } }
    s.cfg.fx33 = .intended ∧ s.i.toNat ≥ 0xFFE ∧ r.cfg.fx33 = .refuse ∧ s.cfg.fx65 = .intended ∧
    s.i.toNat + (2 : Reg).val > 0xFFF ∧ r.cfg.fx65 = .refuse := by decide

theorem witness_DrawOutOfRangeTraps_memory :
    let s : State := { State.reset with i := 0xFFE }
    0x1000 - s.i.toNat < (3 : BitVec 4).toNat ∧
    0x1000 - s.i.toNat ≤ (if (s.getV 0).toNat + 7 ≥ s.cfg.fbW then 0 else s.cfg.fbH - (s.getV 1).toNat) := by decide

theorem witness_DrawOutOfRangeTraps_framebuffer :
    let s := withRegs State.reset [(1, 31)]
    let fbRow := if (s.getV 0).toNat + 7 ≥ s.cfg.fbW then 0 else s.cfg.fbH - (s.getV 1).toNat
    fbRow < (2 : BitVec 4).toNat ∧ fbRow < 0x1000 - s.i.toNat := by decide

-- where the two first rows meet: memRow = fbRow = 1
theorem witness_DrawOutOfRangeTraps_same_row :
    let s := withRegs { State.reset with i := 0xFFF } [(1, 31)]
    let fbRow := if (s.getV 0).toNat + 7 ≥ s.cfg.fbW then 0 else s.cfg.fbH - (s.getV 1).toNat
    0x1000 - s.i.toNat = fbRow ∧ fbRow = 1 ∧ 0x1000 - s.i.toNat < (2 : BitVec 4).toNat ∧
    stopsWith s 0xD012 .memRange = true := by decide

theorem witness_UnspecifiedFaultIsFinal :
    let s : State := { State.reset with fault := .memRange }
    s.wentWrong = true ∧ s.run = .stopped := by decide

theorem witness_CallPushesItsAddress : ({ State.reset with sp := 23 } : State).sp.toNat < 24 := by decide

theorem witness_ReturnGoesPastTheCallSite : ({ State.reset with sp := 24 } : State).sp.toNat = 23 + 1 ∧ 23 < 24 := by
  decide

theorem witness_CallThenReturn :
    ∃ t, running.run = .running ∧ exec (.call 0x300) running = .next t ∧ t.run = .running ∧ t.sp = t.sp ∧ t.stk = t.stk :=
  ⟨_, rfl, rfl, rfl, rfl, rfl⟩

theorem witness_ImmediateSkips :
    State.reset.getV 3 = 0x00 ∧ (State.reset.setV 3 0xFF).getV 3 ≠ 0x00 := by decide

theorem witness_AddImmediateWraps : (14 : Reg) ≠ 15 := by decide

theorem witness_AndIsBitwise : (0 : Reg) ≠ 15 := by decide

theorem witness_AddWithCarryLatched : State.reset.cfg.aliasOrder = .latched ∧ (14 : Reg) ≠ 15 := by decide

theorem witness_SubWithNotBorrowLatched : State.reset.cfg.aliasOrder = .latched ∧ (0 : Reg) ≠ 15 := by decide

theorem witness_SequentialOrderRereads :
    ({ State.reset with cfg := { defaultConfig with aliasOrder := .sequential } } : State).cfg.aliasOrder = .sequential := by
  decide

theorem witness_RandomIsMasked : (14 : Reg) ≠ 15 := by decide

theorem witness_StoreDigitsWritesThreeBytes :
    let s : State := { State.reset with i := 0xFFD }
    s.memInv ∧ s.cfg.fx33 = .intended ∧ s.i.toNat ≤ 0xFFD ∧ (0xFFC < s.i.toNat ∨ s.i.toNat + 2 < 0xFFC) := by decide

theorem witness_LoadRegistersFromMemory :
    let s : State := { State.reset with i := 0xFF0 }
    s.cfg.fx65 = .intended ∧ s.i.toNat + (15 : Reg).val ≤ 0xFFF ∧ (0 : Reg).val ≤ (15 : Reg).val := by decide

theorem witness_StoreIsSeenByTheNextFetch :
    let s : State := { running with i := 0xFFD }
    s.memInv ∧ (∃ t, exec (.ldB 0) s = .next t ∧ t.run = .running) ∧ (0xFFE : Word).toNat ≤ 0xFFE ∧
    (s.i.toNat ≤ (0xFFE : Word).toNat ∧ (0xFFE : Word).toNat ≤ s.i.toNat + 2) ∧
    (0xFFE : Word).toNat + 1 = s.i.toNat + 2 ∧ (0xFFC : Word).toNat + 1 = s.i.toNat :=
  ⟨by decide, ⟨_, rfl, rfl⟩, by decide, by decide, by decide, by decide⟩

theorem witness_ClearScreen : running.run = .running := by decide

theorem witness_DrawOverwritesTheBox_collision :
    let s := withRegs (({ State.reset with i := 0x000 } : State).setPixel 63 31 pixOn) [(0, 56), (1, 31)]
    s.fbInv ∧ drawInRange s 0 1 1 ∧ inBox s 0 1 1 63 31 ∧ s.pixel 63 31 = 0xFF ∧ spriteAt s 0 1 63 31 = false ∧
    ¬ inBox s 0 1 1 55 31 := by decide

theorem witness_DrawOverwritesTheBox_no_collision :
    State.reset.fbInv ∧ drawInRange State.reset 0 1 15 ∧ drawInRange { State.reset with i := 0xFFFF } 0 1 0 := by decide

theorem witness_DrawOverwritesTheBox_no_collision_clause :
    ¬ ∃ px py : Nat, inBox State.reset 0 1 15 px py ∧ State.reset.pixel px py = 0xFF ∧
      spriteAt State.reset 0 1 px py = false := by
  rintro ⟨px, py, -, h, -⟩
  exact absurd h (by simp [State.pixel, State.reset, Memory.read, initialPixel])

theorem witness_RedrawChangesNothing :
    running.fbInv ∧ ∃ t, exec (.drw 0 1 1) running = .next t ∧ t.run = .running ∧ t.getV 0 = running.getV 0 ∧
      t.getV 1 = running.getV 1 :=
  ⟨by decide, _, rfl, rfl, rfl, rfl⟩

theorem witness_KeySkips :
    ((State.reset.setV 2 0x0F).getV 2).toNat = (15 : Fin 16).val ∧ (State.reset.getV 2).toNat = (0 : Fin 16).val := by
  decide

theorem witness_TimerReadsAndLoads : running.run = .running := by decide

theorem witness_FrameOfControlTransfer :
    ∃ t, family (.call 0x300) = .control ∧ running.run = .running ∧ exec (.call 0x300) running = .next t ∧
      t.run = .running := ⟨_, rfl, rfl, rfl, rfl⟩

theorem witness_FrameOfRegisterInstructions :
    ∃ t, family (.subReg 1 2) = .alu ∧ running.run = .running ∧ exec (.subReg 1 2) running = .next t ∧
      t.run = .running := ⟨_, rfl, rfl, rfl, rfl⟩

theorem witness_FrameOfIndexInstructions :
    ∃ t, family (.ldB 0) = .index ∧ running.run = .running ∧ exec (.ldB 0) running = .next t ∧
      t.run = .running := ⟨_, rfl, rfl, rfl, rfl⟩

theorem witness_FrameOfFramebufferInstructions :
    ∃ t, family (.drw 0 1 1) = .video ∧ running.run = .running ∧ exec (.drw 0 1 1) running = .next t ∧
      t.run = .running := ⟨_, rfl, rfl, rfl, rfl⟩

theorem witness_FrameOfInputAndTimerInstructions :
    ∃ t, family (.ldSTVx 3) = .inputTimer ∧ running.run = .running ∧ exec (.ldSTVx 3) running = .next t ∧
      t.run = .running := ⟨_, rfl, rfl, rfl, rfl⟩

theorem witness_StepKeepsInv : (ready 0xF033).Inv ∧ ∃ t, step (ready 0xF033) = .next t := ⟨by decide, _, rfl⟩

theorem witness_StepKeepsPCBounded : (ready 0x2300).pcInv ∧ ∃ t, step (ready 0x2300) = .next t := ⟨by decide, _, rfl⟩

theorem witness_HostMovesKeepInv :
    State.reset.Inv ∧ State.reset.pcInv ∧ (∃ t, State.reset.start = .next t) ∧
    ∃ t, State.romLoad [0x12, 0x00] State.reset = .next t := ⟨by decide, by decide, ⟨_, rfl⟩, ⟨_, rfl⟩⟩

theorem witness_StepAlwaysAnswers : (ready 0xD015).Inv := by decide

theorem witness_StepKeepsConfig : ∃ t, step (ready 0xD015) = .next t := ⟨_, rfl⟩

theorem witness_OnlyStoreDigitsWritesMemory :
    let s := withRegs { ready 0xF033 with i := 0x300 } [(0, 100)]
    ∃ t, step s = .next t ∧ t.wentWrong = false ∧ t.byteAt 0x300 ≠ s.byteAt 0x300 :=
  ⟨_, rfl, rfl, by decide⟩

theorem witness_OnlyDrawsWriteTheFramebuffer :
    let s := (ready 0x00E0).setPixel 63 31 pixOn
    ∃ t, step s = .next t ∧ t.wentWrong = false ∧ 63 < s.cfg.fbW ∧ 31 < s.cfg.fbH ∧ t.pixel 63 31 ≠ s.pixel 63 31 :=
  ⟨_, rfl, rfl, by decide, by decide, by decide⟩

theorem witness_SoundTimerIsUnobservable : ∃ t, step (ready 0xF018) = .next t := ⟨_, rfl⟩

theorem witness_FaultRegisterIsUnobservable : ∃ t, step (ready 0x00EE) = .next t := ⟨_, rfl⟩

theorem witness_StartAndStop : State.reset.wentWrong = false := by decide

theorem witness_RomLoadCopiesVerbatim :
    State.reset.memInv ∧ State.reset.run = .stopped ∧ State.reset.loadOpen = true ∧
    ∃ longest tooLong : List Byte, longest.length = 3584 ∧ tooLong.length = 3585 :=
  ⟨by decide, rfl, rfl, List.replicate 3584 0x12, List.replicate 3585 0x12, List.length_replicate, List.length_replicate⟩

theorem witness_RomLoadCopiesVerbatim_refused :
    running.run = .running ∧ ({ State.reset with loadOpen := false } : State).loadOpen = false := by decide

theorem witness_FaultCauseCodes :
    State.reset.fault = .none ∧ ({ State.reset with fault := .romTooLarge } : State).fault = .romTooLarge := by decide

end Sys2Proof.Tests
end

section
/-! PROOFS. Control transfer (41_control_transfer.md): 1nnn, 2nnn, 00EE, 3xnn and 4xnn. -/

namespace Sys2Proof.Machine

/-! ### The dispatch of the control transfers, down to the shared operations -/

theorem exec_jp (nnn : BitVec 12) (s : State) : exec (.jp nnn) s = .next (s.setPC (addr16 nnn)) := rfl

theorem exec_call (nnn : BitVec 12) (s : State) :
    exec (.call nnn) s = s.push s.pc (fun t => t.setPC (addr16 nnn)) := rfl

theorem exec_ret (s : State) : exec .ret s = s.pop (fun site t => t.setPC (site + 2)) := rfl

theorem exec_seImm (x : Reg) (nn : Byte) (s : State) :
    exec (.seImm x nn) s = .next (s.skipIf (s.getV x == nn)) := rfl

theorem exec_sneImm (x : Reg) (nn : Byte) (s : State) :
    exec (.sneImm x nn) s = .next (s.skipIf (s.getV x != nn)) := rfl

/-! ### The arithmetic of PC and SP -/

@[simp] theorem addr16_toNat (nnn : BitVec 12) : (addr16 nnn).toNat = nnn.toNat :=
  BitVec.toNat_setWidth_of_le (by decide)

/-- R84, R91: a skip is 4 past or 2 past, modulo 2^16. -/
theorem State.skipIf_pc_toNat (s : State) (c : Bool) :
    (s.skipIf c).pc.toNat = (s.pc.toNat + if c then 4 else 2) % 65536 := by
  cases c <;> simp [BitVec.toNat_add]

/-- A skip moves PC only. -/
theorem State.skipIf_frame (s : State) (c : Bool) : s.skipIf c = { s with pc := (s.skipIf c).pc } := rfl

end Sys2Proof.Machine

open Sys2Proof Sys2Proof.Machine

/-- Settles O26: both instructions are one `skipIf`, on the comparison or its negation. -/
theorem immediateSkips : Obligations.ImmediateSkips := by
  intro s x nn
  refine ⟨⟨_, exec_seImm x nn s, s.skipIf_frame _, ?_⟩, ⟨_, exec_sneImm x nn s, s.skipIf_frame _, ?_⟩⟩
  · simp only [State.skipIf_pc_toNat, beq_iff_eq]
  · simp only [State.skipIf_pc_toNat, bne_iff_ne]

/-- Settles O22: the zero extension of nnn keeps its value. -/
theorem jumpSetsPC : Obligations.JumpSetsPC := fun s nnn =>
  ⟨_, exec_jp nnn s, addr16_toNat nnn, rfl⟩

/-- Settles O23: with a free entry the push completes (`State.push_room`), and the count below 24 does not wrap. -/
theorem callPushesItsAddress : Obligations.CallPushesItsAddress := by
  intro s nnn h
  have hsp : (s.sp + 1).toNat = s.sp.toNat + 1 := by bv_omega
  refine ⟨_, (exec_call nnn s).trans (s.push_room _ _ h), addr16_toNat nnn, hsp, ?_, rfl⟩
  exact Vector.getElem_set_self h

/-- Settles O24: with an entry in use the pop completes (`State.pop_entry`) and hands over the last call site. -/
theorem returnGoesPastTheCallSite : Obligations.ReturnGoesPastTheCallSite := by
  intro s k hk h
  have hsp : (s.sp - 1).toNat = k := by bv_omega
  exact ⟨_, (exec_ret s).trans (s.pop_entry _ k hk h), hsp, BitVec.toNat_add _ _, rfl⟩

end

section
/-! PROOFS. Register and arithmetic instructions (42_register_alu.md): 6xnn, 7xnn, 8xy0 and 8xy2. -/

namespace Sys2Proof.Machine

/-! ### The dispatch of the one-register writes: each is one `setV`, then `advance` -/

theorem exec_ldImm (x : Reg) (nn : Byte) (s : State) : exec (.ldImm x nn) s = .next (s.setV x nn).advance := rfl

theorem exec_addImm (x : Reg) (nn : Byte) (s : State) :
    exec (.addImm x nn) s = .next (s.setV x (addByte (s.getV x) nn)).advance := rfl

theorem exec_ldReg (x y : Reg) (s : State) : exec (.ldReg x y) s = .next (s.setV x (s.getV y)).advance := rfl

theorem exec_andReg (x y : Reg) (s : State) :
    exec (.andReg x y) s = .next (s.setV x (s.getV x &&& s.getV y)).advance := rfl

/-! ### What a register write and the advance leave -/

theorem State.advance_setV (s : State) (x : Reg) (b : Byte) :
    (s.setV x b).advance = { s with v := s.v.set x b, pc := s.pc + 2 } := rfl

theorem State.getV_advance_setV_same (s : State) (x : Reg) (b : Byte) : (s.setV x b).advance.getV x = b := by
  rw [State.getV_advance, State.getV_setV_same]

/-- VF included: these instructions write no flag. -/
theorem State.getV_advance_setV_other (s : State) (x : Reg) (b : Byte) (r : Reg) (h : r ≠ x) :
    (s.setV x b).advance.getV r = s.getV r :=
  (State.getV_advance _ r).trans (s.getV_setV_other x r b h)

/-- R117: the sum of two bytes wraps modulo 256. -/
theorem addByte_toNat (a b : Byte) : (addByte a b).toNat = (a.toNat + b.toNat) % 256 := BitVec.toNat_add a b

end Sys2Proof.Machine

open Sys2Proof Sys2Proof.Machine

/-- Settles O28: one register write of the wrapping sum. -/
theorem addImmediateWraps : Obligations.AddImmediateWraps := by
  intro s x nn
  refine ⟨_, exec_addImm x nn s, ?_, s.getV_advance_setV_other x _, s.advance_setV x _⟩
  rw [State.getV_advance_setV_same, addByte_toNat]

/-- Settles O29: one register write of the conjunction, read off bit by bit. -/
theorem andIsBitwise : Obligations.AndIsBitwise := by
  intro s x y
  refine ⟨_, exec_andReg x y s, fun b => ?_, s.getV_advance_setV_other x _, s.advance_setV x _⟩
  rw [State.getV_advance_setV_same, BitVec.getLsbD_and]

/-- Settles O27: both loads are one register write, of nn or of the old V[y]. -/
theorem registerLoads : Obligations.RegisterLoads := by
  intro s x y nn
  constructor
  · rw [exec_ldImm, State.advance_setV]
  · rw [exec_ldReg, State.advance_setV, State.getV]

end

section
/-! PROOFS. Index and memory instructions (43_index_and_memory.md): Annn, and what may write memory (R40, R123). -/

namespace Sys2Proof.Machine

/-! ### The dispatch of the index and memory instructions -/

theorem exec_ldI (nnn : BitVec 12) (s : State) : exec (.ldI nnn) s = .next (s.setI (addr16 nnn)).advance := rfl

theorem exec_ldB_intended {s : State} (hv : s.cfg.fx33 = .intended) (x : Reg) :
    exec (.ldB x) s = s.settle ((s.storeDigits (s.getV x)).map State.advance) := by
  simp only [exec, execLdB, hv]

theorem exec_ldB_refuse {s : State} (hv : s.cfg.fx33 = .refuse) (x : Reg) :
    exec (.ldB x) s = s.raise .unmodelled := by
  simp only [exec, execLdB, hv]

theorem exec_ldRegs_intended {s : State} (hv : s.cfg.fx65 = .intended) (x : Reg) :
    exec (.ldRegs x) s = s.settle ((State.fillRegs (x.val + 1) 0 s).map State.advance) := by
  simp only [exec, execLdRegs, hv]

theorem exec_ldRegs_refuse {s : State} (hv : s.cfg.fx65 = .refuse) (x : Reg) :
    exec (.ldRegs x) s = s.raise .unmodelled := by
  simp only [exec, execLdRegs, hv]

/-! ### What the shared operations leave when they complete -/

/-- R123: the three stores touch no byte outside I to I+2. -/
theorem State.byteAt_storeDigits_other {s t : State} {v : Byte} (h : s.storeDigits v = .ok t) {a : Nat}
    (ha : ¬ (s.eaI 0 ≤ a ∧ a ≤ s.eaI 2)) : t.byteAt a = s.byteAt a := by
  simp only [State.eaI] at ha
  by_cases hi : s.i.toNat ≤ 0xFFD
  · rw [State.storeDigits_inRange s v hi] at h
    cases h
    rw [State.byteAt_setByte_other _ _ _ _ (by omega), State.byteAt_setByte_other _ _ _ _ (by omega),
      State.byteAt_setByte_other _ _ _ _ (by omega)]
  · rw [State.storeDigits_outOfRange s v (by omega)] at h
    cases h

/-- R124: the loop that loads registers moves V and I only. -/
theorem State.fillRegs_ok_frame {s t : State} {x : Reg} (h : State.fillRegs (x.val + 1) 0 s = .ok t) :
    t = { s with v := t.v, i := t.i } := by
  obtain ⟨-, m, hm, -, -, -, hframe⟩ | ⟨-, hm⟩ := State.fillRegs_cases x s
  · cases hm.symm.trans h
    exact hframe
  · cases hm.symm.trans h

/-- R131: a draw moves V and FB only. -/
theorem State.drawRows_ok_frame {s t : State} {x y : Reg} {n : BitVec 4}
    (h : State.drawRows (s.getV x).toNat (s.getV y).toNat n.toNat 0 s = .ok t) :
    t = { s with v := t.v, fb := t.fb } := by
  by_cases hr : drawInRange s x y n
  · simp only [drawInRange, State.eaI] at hr
    obtain ⟨m, hm, hdrawn⟩ := State.drawRows_inside (s.getV x).toNat (s.getV y).toNat n.toNat 0 s (by omega)
    cases hm.symm.trans h
    exact hdrawn.frame
  · simp only [drawInRange, State.eaI, not_or] at hr
    rw [State.drawRows_outside _ _ _ 0 s _ _ rfl rfl (.inr rfl) (.inr rfl) (by split <;> omega)] at h
    cases h

/-! ### The bytes of memory through the ends of an execute phase -/

@[simp] theorem State.byteAt_afterExec (i : Instr) (t : State) (a : Nat) : (t.afterExec i).byteAt a = t.byteAt a := by
  cases hr : t.run with
  | stopped => rw [State.afterExec_stopped i t hr]
  | running => rw [State.afterExec_running i t hr]; rfl

@[simp] theorem State.wentWrong_afterExec (i : Instr) (t : State) : (t.afterExec i).wentWrong = t.wentWrong := by
  cases hr : t.run with
  | stopped => rw [State.afterExec_stopped i t hr]
  | running => rw [State.afterExec_running i t hr]; rfl

/-- R151: a precise fault leaves memory as it was. -/
theorem State.byteAt_faulted {c : Cause} {s : State} (h : (s.faulted c).wentWrong = false) (a : Nat) :
    (s.faulted c).byteAt a = s.byteAt a := by
  rw [s.faulted_precise c h]
  rfl

/-- An execute phase that settles keeps a byte when its completion does. -/
theorem State.byteAt_settle_map {α : Type} {s t : State} {r : Except Cause α} {f : α → State}
    (h : s.settle (r.map f) = .next t) (ht : t.wentWrong = false) {a : Nat}
    (keeps : ∀ u, r = .ok u → (f u).byteAt a = s.byteAt a) : t.byteAt a = s.byteAt a := by
  cases r with
  | ok u => cases h; exact keeps u rfl
  | error c => cases h; exact State.byteAt_faulted ht a

/-- R40, R123: an execute phase that meets no unspecified fault keeps every byte but the three that Fx33 stores. -/
theorem exec_byteAt_unstored {i : Instr} {s t : State} (h : exec i s = .next t) (ht : t.wentWrong = false) {a : Nat}
    (unstored : ∀ x, i = .ldB x → ¬ (s.eaI 0 ≤ a ∧ a ≤ s.eaI 2)) : t.byteAt a = s.byteAt a := by
  cases i with
  | ret =>
    rw [exec_ret] at h
    rcases State.pop_next h with ⟨n, _, _, rfl⟩ | ⟨_, rfl⟩ <;> rfl
  | call nnn =>
    rw [exec_call] at h
    rcases State.push_next h with ⟨_, rfl⟩ | ⟨_, rfl⟩ <;> rfl
  | addReg x y => cases h; simp [State.byteAt]
  | subReg x y => cases h; simp [State.byteAt]
  | skp x => exact State.byteAt_settle_map h ht fun _ _ => rfl
  | sknp x => exact State.byteAt_settle_map h ht fun _ _ => rfl
  | drw x y n =>
    refine State.byteAt_settle_map h ht fun u hu => ?_
    rw [State.byteAt_advance, State.drawRows_ok_frame hu]
    rfl
  | ldB x =>
    cases hv : s.cfg.fx33 with
    | refuse =>
      rw [exec_ldB_refuse hv] at h
      cases h; rfl
    | intended =>
      rw [exec_ldB_intended hv] at h
      exact State.byteAt_settle_map h ht fun _ hu => State.byteAt_storeDigits_other hu (unstored x rfl)
  | ldRegs x =>
    cases hv : s.cfg.fx65 with
    | refuse =>
      rw [exec_ldRegs_refuse hv] at h
      cases h; rfl
    | intended =>
      rw [exec_ldRegs_intended hv] at h
      refine State.byteAt_settle_map h ht fun u hu => ?_
      rw [State.byteAt_advance, State.fillRegs_ok_frame hu]
      rfl
  | _ => cases h; rfl

end Sys2Proof.Machine

open Sys2Proof Sys2Proof.Machine

/-- Settles O54: only the executed instruction can change a byte (`step_cases`), and it keeps every byte it is not
about to store (`exec_byteAt_unstored`). -/
theorem onlyStoreDigitsWritesMemory : Obligations.OnlyStoreDigitsWritesMemory := by
  intro s t a h ht hne
  rcases step_cases h with ⟨_, rfl⟩ | ⟨_, _, rfl⟩ | ⟨_, _, _, rfl⟩ | ⟨_, _, _, _, rfl⟩ | ⟨i, m, habout, _, hexec, rfl⟩
  · exact absurd rfl hne
  · exact absurd rfl hne
  · exact absurd rfl hne
  · exact absurd rfl hne
  · have hm : m.wentWrong = false := (State.wentWrong_afterExec i m).symm.trans ht
    have hchanged : m.byteAt a ≠ s.byteAt a := by simpa using hne
    by_contra hnone
    refine hchanged (exec_byteAt_unstored hexec hm ?_)
    rintro x rfl ⟨hlow, hhigh⟩
    exact hnone ⟨x, habout, hlow, hhigh⟩

/-- Settles O34: the zero extension of nnn keeps its value, and only I and PC are written. -/
theorem loadIndexImmediate : Obligations.LoadIndexImmediate := fun s nnn =>
  ⟨_, exec_ldI nnn s, addr16_toNat nnn, rfl⟩

end

section
/-! PROOFS. Encoding (30_encoding.md sections 1 to 4): the encoder and the decoder are inverse to each other, the
rows of the opcode map are apart, and the words that no row takes are the listed groups. -/

namespace Sys2Proof

open Sys2Proof.Laws

/-! ### The fields of the formats of R62 -/

@[simp] theorem fieldNNN_formatNNN (op : BitVec 4) (nnn : BitVec 12) : fieldNNN (formatNNN op nnn) = nnn :=
  BitVec.extractLsb'_append_eq_right

@[simp] theorem fieldNN_formatXNN (op : BitVec 4) (x : Reg) (nn : Byte) : fieldNN (formatXNN op x nn) = nn :=
  BitVec.extractLsb'_append_eq_right

@[simp] theorem fieldN_formatXYN (op : BitVec 4) (x y : Reg) (n : BitVec 4) : fieldN (formatXYN op x y n) = n :=
  BitVec.extractLsb'_append_eq_right

@[simp] theorem fieldX_formatXNN (op : BitVec 4) (x : Reg) (nn : Byte) : fieldX (formatXNN op x nn) = x := by
  have : BitVec.extractLsb' 8 4 (formatXNN op x nn) = nibble x := by
    apply BitVec.eq_of_getLsbD_eq
    intro i hi
    simp only [formatXNN, BitVec.getLsbD_extractLsb', BitVec.getLsbD_append]
    simp [hi]
  rw [fieldX, this]
  rfl

@[simp] theorem fieldX_formatXYN (op : BitVec 4) (x y : Reg) (n : BitVec 4) : fieldX (formatXYN op x y n) = x := by
  have : BitVec.extractLsb' 8 4 (formatXYN op x y n) = nibble x := by
    apply BitVec.eq_of_getLsbD_eq
    intro i hi
    simp only [formatXYN, BitVec.getLsbD_extractLsb', BitVec.getLsbD_append]
    interval_cases i <;> simp
  rw [fieldX, this]
  rfl

@[simp] theorem fieldY_formatXYN (op : BitVec 4) (x y : Reg) (n : BitVec 4) : fieldY (formatXYN op x y n) = y := by
  have : BitVec.extractLsb' 4 4 (formatXYN op x y n) = nibble y := by
    apply BitVec.eq_of_getLsbD_eq
    intro i hi
    simp only [formatXYN, BitVec.getLsbD_extractLsb', BitVec.getLsbD_append]
    interval_cases i <;> simp
  rw [fieldY, this]
  rfl

/-! ### A word is its op and its fields -/

/-- `op[15:12]`, which every mask compares. -/
def fieldOp (w : Word) : BitVec 4 := w.extractLsb' 12 4

theorem formatNNN_fields (w : Word) : formatNNN (fieldOp w) (fieldNNN w) = w := by
  apply BitVec.eq_of_getLsbD_eq
  intro i hi
  simp only [formatNNN, fieldOp, fieldNNN, BitVec.getLsbD_append, BitVec.getLsbD_extractLsb']
  interval_cases i <;> simp

theorem formatXNN_fields (w : Word) : formatXNN (fieldOp w) (fieldX w) (fieldNN w) = w := by
  apply BitVec.eq_of_getLsbD_eq
  intro i hi
  simp only [formatXNN, fieldOp, fieldX, fieldNN, nibble, BitVec.ofFin_toFin, BitVec.getLsbD_append,
    BitVec.getLsbD_extractLsb']
  interval_cases i <;> simp

theorem formatXYN_fields (w : Word) : formatXYN (fieldOp w) (fieldX w) (fieldY w) (fieldN w) = w := by
  apply BitVec.eq_of_getLsbD_eq
  intro i hi
  simp only [formatXYN, fieldOp, fieldX, fieldY, fieldN, nibble, BitVec.ofFin_toFin, BitVec.getLsbD_append,
    BitVec.getLsbD_extractLsb']
  interval_cases i <;> simp

/-! ### What a hit of each mask says of the fields (R64) -/

theorem fieldOp_formatNNN (op : BitVec 4) (nnn : BitVec 12) : fieldOp (formatNNN op nnn) = op :=
  BitVec.extractLsb'_append_eq_left

/-- The fixed bits of a row without a minor opcode are its op. -/
theorem hits_op_iff (op : BitVec 4) (w : Word) : w &&& 0xF000#16 = op ++ 0#12 ↔ fieldOp w = op := by
  constructor
  · intro h
    have hop : fieldOp (w &&& 0xF000#16) = fieldOp w :=
      BitVec.extractLsb'_and.trans (BitVec.and_allOnes (x := fieldOp w))
    rw [← hop, h]
    exact fieldOp_formatNNN op 0
  · rintro rfl
    conv_lhs => rw [← formatNNN_fields w]
    exact HitsItsRow.formatNNN_op _ _

/-- Group 8: the fixed bits are op and the minor opcode. -/
theorem hits_op_minor_iff (op n : BitVec 4) (w : Word) :
    w &&& 0xF00F#16 = op ++ 0#8 ++ n ↔ fieldOp w = op ∧ fieldN w = n := by
  constructor
  · intro h
    have hop : fieldOp (w &&& 0xF00F#16) = fieldOp w :=
      BitVec.extractLsb'_and.trans (BitVec.and_allOnes (x := fieldOp w))
    have hn : fieldN (w &&& 0xF00F#16) = fieldN w :=
      BitVec.extractLsb'_and.trans (BitVec.and_allOnes (x := fieldN w))
    rw [← hop, ← hn, h]
    refine ⟨?_, BitVec.extractLsb'_append_eq_right⟩
    rw [BitVec.append_assoc]
    exact fieldOp_formatNNN op _
  · rintro ⟨rfl, rfl⟩
    conv_lhs => rw [← formatXYN_fields w]
    exact HitsItsRow.formatXYN_op_minor _ _ _ _

/-- Groups E and F: the fixed bits are op and the low byte. -/
theorem hits_op_low_iff (op : BitVec 4) (nn : Byte) (w : Word) :
    w &&& 0xF0FF#16 = op ++ 0#4 ++ nn ↔ fieldOp w = op ∧ fieldNN w = nn := by
  constructor
  · intro h
    have hop : fieldOp (w &&& 0xF0FF#16) = fieldOp w :=
      BitVec.extractLsb'_and.trans (BitVec.and_allOnes (x := fieldOp w))
    have hnn : fieldNN (w &&& 0xF0FF#16) = fieldNN w :=
      BitVec.extractLsb'_and.trans (BitVec.and_allOnes (x := fieldNN w))
    rw [← hop, ← hnn, h]
    refine ⟨?_, BitVec.extractLsb'_append_eq_right⟩
    rw [BitVec.append_assoc]
    exact fieldOp_formatNNN op _
  · rintro ⟨rfl, rfl⟩
    conv_lhs => rw [← formatXNN_fields w]
    exact HitsItsRow.formatXNN_op_minor _ _ _

/-! ### Encoding, then decoding -/

/-- The decoder takes row `k` of the map (in the order of R64) for a word with that row's fixed bits. -/
theorem decodeWord_of_row (k : Fin 24) {w : Word} (h : w &&& opcodeRows[k].mask = opcodeRows[k].value) :
    decodeWord w = some (opcodeRows[k].build w) :=
  decodeWord_of_hits (List.getElem_mem _) (beq_iff_eq.2 h)

/-- Every instruction's word hits its own row, and the fields of the word are the operands. -/
theorem decodeWord_encodeWord (i : Instr) : decodeWord (encodeWord i) = some i := by
  cases i with
  | cls => exact decodeWord_of_row 0 HitsItsRow.cls
  | ret => exact decodeWord_of_row 1 HitsItsRow.ret
  | jp nnn => simpa [opcodeRows, encodeWord] using decodeWord_of_row 2 (HitsItsRow.jp nnn)
  | call nnn => simpa [opcodeRows, encodeWord] using decodeWord_of_row 3 (HitsItsRow.call nnn)
  | seImm x nn => simpa [opcodeRows, encodeWord] using decodeWord_of_row 4 (HitsItsRow.seImm x nn)
  | sneImm x nn => simpa [opcodeRows, encodeWord] using decodeWord_of_row 5 (HitsItsRow.sneImm x nn)
  | ldImm x nn => simpa [opcodeRows, encodeWord] using decodeWord_of_row 6 (HitsItsRow.ldImm x nn)
  | addImm x nn => simpa [opcodeRows, encodeWord] using decodeWord_of_row 7 (HitsItsRow.addImm x nn)
  | ldReg x y => simpa [opcodeRows, encodeWord] using decodeWord_of_row 8 (HitsItsRow.ldReg x y)
  | andReg x y => simpa [opcodeRows, encodeWord] using decodeWord_of_row 9 (HitsItsRow.andReg x y)
  | addReg x y => simpa [opcodeRows, encodeWord] using decodeWord_of_row 10 (HitsItsRow.addReg x y)
  | subReg x y => simpa [opcodeRows, encodeWord] using decodeWord_of_row 11 (HitsItsRow.subReg x y)
  | ldI nnn => simpa [opcodeRows, encodeWord] using decodeWord_of_row 12 (HitsItsRow.ldI nnn)
  | rnd x nn => simpa [opcodeRows, encodeWord] using decodeWord_of_row 13 (HitsItsRow.rnd x nn)
  | drw x y n => simpa [opcodeRows, encodeWord] using decodeWord_of_row 14 (HitsItsRow.drw x y n)
  | skp x => simpa [opcodeRows, encodeWord] using decodeWord_of_row 15 (HitsItsRow.skp x)
  | sknp x => simpa [opcodeRows, encodeWord] using decodeWord_of_row 16 (HitsItsRow.sknp x)
  | ldVxDT x => simpa [opcodeRows, encodeWord] using decodeWord_of_row 17 (HitsItsRow.ldVxDT x)
  | ldDTVx x => simpa [opcodeRows, encodeWord] using decodeWord_of_row 18 (HitsItsRow.ldDTVx x)
  | ldSTVx x => simpa [opcodeRows, encodeWord] using decodeWord_of_row 19 (HitsItsRow.ldSTVx x)
  | addI x => simpa [opcodeRows, encodeWord] using decodeWord_of_row 20 (HitsItsRow.addI x)
  | ldF x => simpa [opcodeRows, encodeWord] using decodeWord_of_row 21 (HitsItsRow.ldF x)
  | ldB x => simpa [opcodeRows, encodeWord] using decodeWord_of_row 22 (HitsItsRow.ldB x)
  | ldRegs x => simpa [opcodeRows, encodeWord] using decodeWord_of_row 23 (HitsItsRow.ldRegs x)

/-! ### Decoding, then encoding: a word with a row's fixed bits is the row's format of its own fields -/

theorem formatNNN_of_hit {op : BitVec 4} {w : Word} (h : w &&& 0xF000#16 = op ++ 0#12) :
    formatNNN op (fieldNNN w) = w := by
  rw [← (hits_op_iff op w).1 h, formatNNN_fields]

theorem formatXNN_of_hit {op : BitVec 4} {w : Word} (h : w &&& 0xF000#16 = op ++ 0#12) :
    formatXNN op (fieldX w) (fieldNN w) = w := by
  rw [← (hits_op_iff op w).1 h, formatXNN_fields]

theorem formatXYN_of_hit {op : BitVec 4} {w : Word} (h : w &&& 0xF000#16 = op ++ 0#12) :
    formatXYN op (fieldX w) (fieldY w) (fieldN w) = w := by
  rw [← (hits_op_iff op w).1 h, formatXYN_fields]

theorem formatXYN_of_hit_minor {op n : BitVec 4} {w : Word} (h : w &&& 0xF00F#16 = op ++ 0#8 ++ n) :
    formatXYN op (fieldX w) (fieldY w) n = w := by
  obtain ⟨hop, hn⟩ := (hits_op_minor_iff op n w).1 h
  rw [← hop, ← hn, formatXYN_fields]

theorem formatXNN_of_hit_low {op : BitVec 4} {nn : Byte} {w : Word} (h : w &&& 0xF0FF#16 = op ++ 0#4 ++ nn) :
    formatXNN op (fieldX w) nn = w := by
  obtain ⟨hop, hnn⟩ := (hits_op_low_iff op nn w).1 h
  rw [← hop, ← hnn, formatXNN_fields]

/-- The full mask fixes the word. -/
theorem eq_of_hit_all {v w : Word} (h : w &&& 0xFFFF#16 = v) : v = w :=
  h.symm.trans BitVec.and_allOnes

/-- A row rebuilds the words it takes. -/
theorem encodeWord_build {r : OpcodeRow} (hr : r ∈ opcodeRows) {w : Word} (h : w &&& r.mask = r.value) :
    encodeWord (r.build w) = w := by
  simp only [opcodeRows, List.mem_cons, List.not_mem_nil, or_false] at hr
  rcases hr with rfl | rfl | rfl | rfl | rfl | rfl | rfl | rfl | rfl | rfl | rfl | rfl |
    rfl | rfl | rfl | rfl | rfl | rfl | rfl | rfl | rfl | rfl | rfl | rfl
  · exact eq_of_hit_all h
  · exact eq_of_hit_all h
  · exact formatNNN_of_hit h
  · exact formatNNN_of_hit h
  · exact formatXNN_of_hit h
  · exact formatXNN_of_hit h
  · exact formatXNN_of_hit h
  · exact formatXNN_of_hit h
  · exact formatXYN_of_hit_minor h
  · exact formatXYN_of_hit_minor h
  · exact formatXYN_of_hit_minor h
  · exact formatXYN_of_hit_minor h
  · exact formatNNN_of_hit h
  · exact formatXNN_of_hit h
  · exact formatXYN_of_hit h
  · exact formatXNN_of_hit_low h
  · exact formatXNN_of_hit_low h
  · exact formatXNN_of_hit_low h
  · exact formatXNN_of_hit_low h
  · exact formatXNN_of_hit_low h
  · exact formatXNN_of_hit_low h
  · exact formatXNN_of_hit_low h
  · exact formatXNN_of_hit_low h
  · exact formatXNN_of_hit_low h

/-! ### The words of no row -/

theorem fieldOp_toNat (w : Word) : (fieldOp w).toNat = w.toNat / 4096 := by
  rw [fieldOp, BitVec.extractLsb'_toNat, Nat.shiftRight_eq_div_pow]
  omega

theorem fieldN_toNat (w : Word) : (fieldN w).toNat = w.toNat % 16 := BitVec.extractLsb'_toNat 0 4 w

theorem fieldNN_toNat (w : Word) : (fieldNN w).toNat = w.toNat % 256 := BitVec.extractLsb'_toNat 0 8 w

/-- The fixed bits of every row, in the order of R64, field by field. -/
theorem decodeWord_none_iff_fields (w : Word) : decodeWord w = none ↔
    w ≠ 0x00E0 ∧ w ≠ 0x00EE ∧
    fieldOp w ≠ 0x1 ∧ fieldOp w ≠ 0x2 ∧ fieldOp w ≠ 0x3 ∧ fieldOp w ≠ 0x4 ∧ fieldOp w ≠ 0x6 ∧ fieldOp w ≠ 0x7 ∧
    ¬(fieldOp w = 0x8 ∧ fieldN w = 0x0) ∧ ¬(fieldOp w = 0x8 ∧ fieldN w = 0x2) ∧
    ¬(fieldOp w = 0x8 ∧ fieldN w = 0x4) ∧ ¬(fieldOp w = 0x8 ∧ fieldN w = 0x5) ∧
    fieldOp w ≠ 0xA ∧ fieldOp w ≠ 0xC ∧ fieldOp w ≠ 0xD ∧
    ¬(fieldOp w = 0xE ∧ fieldNN w = 0x9E) ∧ ¬(fieldOp w = 0xE ∧ fieldNN w = 0xA1) ∧
    ¬(fieldOp w = 0xF ∧ fieldNN w = 0x07) ∧ ¬(fieldOp w = 0xF ∧ fieldNN w = 0x15) ∧
    ¬(fieldOp w = 0xF ∧ fieldNN w = 0x18) ∧ ¬(fieldOp w = 0xF ∧ fieldNN w = 0x1E) ∧
    ¬(fieldOp w = 0xF ∧ fieldNN w = 0x29) ∧ ¬(fieldOp w = 0xF ∧ fieldNN w = 0x33) ∧
    ¬(fieldOp w = 0xF ∧ fieldNN w = 0x65) := by
  have word (v : Word) : ¬ w &&& 0xFFFF#16 = v ↔ w ≠ v :=
    not_congr ⟨fun h => (eq_of_hit_all h).symm, fun h => BitVec.and_allOnes.trans h⟩
  have op (o : BitVec 4) := not_congr (hits_op_iff o w)
  have minor (n : BitVec 4) := not_congr (hits_op_minor_iff 0x8 n w)
  have low (o : BitVec 4) (nn : Byte) := not_congr (hits_op_low_iff o nn w)
  rw [decodeWord_none]
  simp only [opcodeRows, List.forall_mem_cons, List.not_mem_nil, IsEmpty.forall_iff, implies_true, and_true,
    OpcodeRow.hits, beq_eq_false_iff_ne]
  exact and_congr (word _) <| and_congr (word _) <|
    and_congr (op 0x1) <| and_congr (op 0x2) <| and_congr (op 0x3) <| and_congr (op 0x4) <| and_congr (op 0x6) <|
    and_congr (op 0x7) <|
    and_congr (minor 0x0) <| and_congr (minor 0x2) <| and_congr (minor 0x4) <| and_congr (minor 0x5) <|
    and_congr (op 0xA) <| and_congr (op 0xC) <| and_congr (op 0xD) <|
    and_congr (low 0xE 0x9E) <| and_congr (low 0xE 0xA1) <|
    and_congr (low 0xF 0x07) <| and_congr (low 0xF 0x15) <| and_congr (low 0xF 0x18) <| and_congr (low 0xF 0x1E) <|
    and_congr (low 0xF 0x29) <| and_congr (low 0xF 0x33) (low 0xF 0x65)

end Sys2Proof

open Sys2Proof

/-- Settles O3: the two bytes are the word again (`decode_bytes`), and the word decodes to its instruction. -/
theorem decodeOfEncode : Obligations.DecodeOfEncode := by
  intro i rest _
  rw [encode, List.cons_append, List.cons_append, List.nil_append, decode_bytes, decodeWord_encodeWord]

/-- Settles O4: the row that took the word rebuilds it. -/
theorem encodeOfDecode : Obligations.EncodeOfDecode := by
  intro w i h
  obtain ⟨r, hr, hits, rfl⟩ := decodeWord_some h
  exact encodeWord_build hr (beq_iff_eq.1 hits)

/-- Settles O5: two different rows disagree in a bit that both compare (`opcodeRows_apart`), so no word hits both. -/
theorem opcodeRowsDoNotOverlap : Obligations.OpcodeRowsDoNotOverlap := by
  intro w r q hr hq hrw hqw
  have symmetric : Std.Symm fun r q : OpcodeRow => (r.value &&& q.mask) ≠ (q.value &&& r.mask) :=
    ⟨fun _ _ h => h.symm⟩
  have hne : ¬ r ≠ q := fun hne => by
    refine opcodeRows_apart.forall hr hq hne ?_
    rw [← beq_iff_eq.1 hrw, ← beq_iff_eq.1 hqw, BitVec.and_assoc, BitVec.and_assoc, BitVec.and_comm r.mask]
  obtain rfl := not_not.1 hne
  exact ⟨rfl, rfl⟩

/-- Settles O6: the fields of the rows (`decodeWord_none_iff_fields`), as numbers, op by op. -/
theorem unimplementedWordsByGroup : Obligations.UnimplementedWordsByGroup := by
  intro w
  have hcls : w = 0x00E0 → w.toNat / 4096 = 0 := by rintro rfl; rfl
  have hret : w = 0x00EE → w.toNat / 4096 = 0 := by rintro rfl; rfl
  have hop : w.toNat / 4096 < 16 := Nat.div_lt_of_lt_mul w.isLt
  rw [decodeWord_none_iff_fields]
  simp only [ne_eq, ← BitVec.toNat_inj (x := fieldOp w), ← BitVec.toNat_inj (x := fieldN w),
    ← BitVec.toNat_inj (x := fieldNN w), fieldOp_toNat, fieldN_toNat, fieldNN_toNat]
  generalize w.toNat / 4096 = op at *
  interval_cases op <;> simp_all

/-- Settles O7: ten closed words, run through the decoder. -/
theorem knownWordsDecode : Obligations.KnownWordsDecode := by
  unfold Obligations.KnownWordsDecode
  decide

end

section
/-! PROOFS. What an execute phase can do, said once for all 24 instructions: it completes, with the effect that the
shared operations give it, or it takes one of the faults listed for it. -/

namespace Sys2Proof.Machine

/-! ### The dispatch of the remaining instructions, down to the shared operations -/

theorem exec_cls (s : State) : exec .cls s = .next s.clearFB.advance := rfl

theorem exec_addReg (x y : Reg) (s : State) :
    exec (.addReg x y) s = .next (s.flagThenResult x y carryFlag addByte).advance := rfl

theorem exec_subReg (x y : Reg) (s : State) :
    exec (.subReg x y) s = .next (s.flagThenResult x y notBorrowFlag subByte).advance := rfl

theorem exec_rnd (x : Reg) (nn : Byte) (s : State) : exec (.rnd x nn) s = .next (s.setV x (s.rnd &&& nn)).advance := rfl

theorem exec_addI (x : Reg) (s : State) : exec (.addI x) s = .next (s.setI (s.i + byte16 (s.getV x))).advance := rfl

theorem exec_ldF (x : Reg) (s : State) : exec (.ldF x) s = .next (s.setI (glyphAddr (s.getV x))).advance := rfl

theorem exec_ldVxDT (x : Reg) (s : State) : exec (.ldVxDT x) s = .next (s.setV x s.dt).advance := rfl

theorem exec_ldDTVx (x : Reg) (s : State) : exec (.ldDTVx x) s = .next (s.setDT (s.getV x)).advance := rfl

theorem exec_ldSTVx (x : Reg) (s : State) : exec (.ldSTVx x) s = .next (s.setST (s.getV x)).advance := rfl

theorem exec_skp (x : Reg) (s : State) :
    exec (.skp x) s = s.settle ((s.readKey (s.getV x).toNat).map s.skipIf) := rfl

theorem exec_sknp (x : Reg) (s : State) :
    exec (.sknp x) s = s.settle ((s.readKey (s.getV x).toNat).map fun pressed => s.skipIf !pressed) := rfl

theorem exec_drw (x y : Reg) (n : BitVec 4) (s : State) : exec (.drw x y n) s =
    s.settle ((State.drawRows (s.getV x).toNat (s.getV y).toNat n.toNat 0 s).map State.advance) := rfl

/-! ### Ex9E and ExA1: the slot that V[x] names, or KeyRange -/

theorem exec_skp_slot {s : State} {x : Reg} (k : Fin 16) (h : (s.getV x).toNat = k.val) :
    exec (.skp x) s = .next (s.skipIf s.key[k]) := by
  rw [exec_skp, h, State.readKey_slot]
  rfl

theorem exec_sknp_slot {s : State} {x : Reg} (k : Fin 16) (h : (s.getV x).toNat = k.val) :
    exec (.sknp x) s = .next (s.skipIf !s.key[k]) := by
  rw [exec_sknp, h, State.readKey_slot]
  rfl

theorem exec_skp_outOfRange {s : State} {x : Reg} (h : 15 < (s.getV x).toNat) :
    exec (.skp x) s = .next (s.faulted .keyRange) := by
  rw [exec_skp, State.readKey_outOfRange s h]
  rfl

theorem exec_sknp_outOfRange {s : State} {x : Reg} (h : 15 < (s.getV x).toNat) :
    exec (.sknp x) s = .next (s.faulted .keyRange) := by
  rw [exec_sknp, State.readKey_outOfRange s h]
  rfl

/-! ### Fx33: three digits stored, or MemRange -/

/-- The memory after the three stores of Fx33 (R123). -/
def State.digitsStored (s : State) (v : Byte) : State :=
  ((s.setByte s.i.toNat (digitHundreds v)).setByte (s.i.toNat + 1) (digitTens v)).setByte (s.i.toNat + 2) (digitUnits v)

theorem exec_ldB_inRange {s : State} (hv : s.cfg.fx33 = .intended) (x : Reg) (h : s.i.toNat ≤ 0xFFD) :
    exec (.ldB x) s = .next (s.digitsStored (s.getV x)).advance := by
  rw [exec_ldB_intended hv, State.storeDigits_inRange s _ h]
  rfl

theorem exec_ldB_outOfRange {s : State} (hv : s.cfg.fx33 = .intended) (x : Reg) (h : 0xFFD < s.i.toNat) :
    exec (.ldB x) s = .next (s.faulted .memRange) := by
  rw [exec_ldB_intended hv, State.storeDigits_outOfRange s _ h]
  rfl

/-! ### Fx65: V[0] to V[x] loaded, or MemRange -/

/-- From `s` to `t` the registers up to V[x] were loaded from memory at I, I went past the last byte, and nothing else
changed (R124). -/
structure RegsLoaded (s t : State) (x : Reg) : Prop where
  loaded : ∀ r : Reg, r.val ≤ x.val → t.getV r = s.byteAt (s.i.toNat + r.val)
  above : ∀ r : Reg, x.val < r.val → t.getV r = s.getV r
  index : t.i.toNat = s.i.toNat + x.val + 1
  frame : t = { s with v := t.v, i := t.i }

theorem exec_ldRegs_inRange {s : State} (hv : s.cfg.fx65 = .intended) (x : Reg) (h : s.i.toNat + x.val ≤ 0xFFF) :
    ∃ m : State, exec (.ldRegs x) s = .next m.advance ∧ RegsLoaded s m x := by
  obtain ⟨-, m, hm, loaded, above, index, frame⟩ | ⟨hout, -⟩ := State.fillRegs_cases x s
  · refine ⟨m, ?_, loaded, above, index, frame⟩
    rw [exec_ldRegs_intended hv, hm]
    rfl
  · omega

theorem exec_ldRegs_outOfRange {s : State} (hv : s.cfg.fx65 = .intended) (x : Reg) (h : 0xFFF < s.i.toNat + x.val) :
    exec (.ldRegs x) s = .next (s.faulted .memRange) := by
  obtain ⟨hin, -⟩ | ⟨-, hm⟩ := State.fillRegs_cases x s
  · omega
  · rw [exec_ldRegs_intended hv, hm]
    rfl

/-! ### Dxyn: the box drawn, or the fault of the first row that fails -/

theorem exec_drw_inRange {s : State} {x y : Reg} {n : BitVec 4} (h : drawInRange s x y n) :
    ∃ m : State, exec (.drw x y n) s = .next m.advance ∧ Drawn s m (inBox s x y n) (spriteAt s x y) := by
  simp only [drawInRange, State.eaI] at h
  obtain ⟨m, hm, hd⟩ := State.drawRows_inside (s.getV x).toNat (s.getV y).toNat n.toNat 0 s (by omega)
  refine ⟨m, ?_, hd.congr (fun _ _ => Iff.rfl) (fun _ _ _ => rfl)⟩
  rw [exec_drw, hm]
  rfl

/-- The first row of the sprite whose byte lies above 0xFFF. -/
abbrev drawMemRow (s : State) : Nat := 0x1000 - s.i.toNat

/-- The first row of the sprite with a pixel outside the framebuffer. -/
abbrev drawFbRow (s : State) (x y : Reg) : Nat :=
  if (s.getV x).toNat + 7 ≥ s.cfg.fbW then 0 else s.cfg.fbH - (s.getV y).toNat

theorem exec_drw_outOfRange {s : State} {x y : Reg} {n : BitVec 4}
    (h : min (drawMemRow s) (drawFbRow s x y) < n.toNat) :
    exec (.drw x y n) s = .next (s.faulted (if drawMemRow s ≤ drawFbRow s x y then .memRange else .fbRange)) := by
  rw [exec_drw, State.drawRows_outside _ _ _ 0 s (drawMemRow s) (drawFbRow s x y) rfl rfl (.inr rfl) (.inr rfl)
    (by omega)]
  rfl

theorem min_drawRow_lt_of_not_drawInRange {s : State} {x y : Reg} {n : BitVec 4} (h : ¬ drawInRange s x y n) :
    min (drawMemRow s) (drawFbRow s x y) < n.toNat := by
  simp only [drawInRange, State.eaI, not_or] at h
  simp only [drawMemRow, drawFbRow]
  split <;> omega

/-! ### The inversion -/

/-- What a completed execute phase of `i` has done. The instructions that cannot fault have always done what `exec`
says. -/
def Completed (i : Instr) (s t : State) : Prop :=
  match i with
  | .ret => ∃ (n : Nat) (_ : n < 24), s.sp.toNat = n + 1 ∧ t = State.setPC { s with sp := s.sp - 1 } (s.stk[n] + 2)
  | .call nnn => ∃ _ : s.sp.toNat < 24,
      t = State.setPC { s with stk := s.stk.set s.sp.toNat s.pc, sp := s.sp + 1 } (addr16 nnn)
  | .skp x => ∃ k : Fin 16, (s.getV x).toNat = k.val ∧ t = s.skipIf s.key[k]
  | .sknp x => ∃ k : Fin 16, (s.getV x).toNat = k.val ∧ t = s.skipIf !s.key[k]
  | .drw x y n => drawInRange s x y n ∧
      ∃ m : State, Drawn s m (inBox s x y n) (spriteAt s x y) ∧ t = m.advance
  | .ldB x => s.i.toNat ≤ 0xFFD ∧ t = (s.digitsStored (s.getV x)).advance
  | .ldRegs x => ∃ m : State, RegsLoaded s m x ∧ t = m.advance
  | i => exec i s = .next t

/-- Everything an execute phase can do when it has a next state. -/
theorem exec_cases {i : Instr} {s t : State} (h : exec i s = .next t) :
    Completed i s t ∨ ∃ c ∈ mayRaise i, t = s.faulted c := by
  have raised {c : Cause} (hc : c ∈ mayRaise i) (he : exec i s = .next (s.faulted c)) :
      Completed i s t ∨ ∃ c ∈ mayRaise i, t = s.faulted c :=
    .inr ⟨c, hc, by simpa using h.symm.trans he⟩
  cases i with
  | ret =>
    rcases State.pop_next ((exec_ret s).symm.trans h) with ⟨n, hn, hsp, rfl⟩ | ⟨_, rfl⟩
    · exact .inl ⟨n, hn, hsp, rfl⟩
    · exact .inr ⟨_, by simp [mayRaise], rfl⟩
  | call nnn =>
    rcases State.push_next ((exec_call nnn s).symm.trans h) with ⟨hsp, rfl⟩ | ⟨_, rfl⟩
    · exact .inl ⟨hsp, rfl⟩
    · exact .inr ⟨_, by simp [mayRaise], rfl⟩
  | skp x =>
    by_cases hk : (s.getV x).toNat < 16
    · exact .inl ⟨⟨_, hk⟩, rfl, by simpa using h.symm.trans (exec_skp_slot ⟨_, hk⟩ rfl)⟩
    · exact raised (by simp [mayRaise]) (exec_skp_outOfRange (by omega))
  | sknp x =>
    by_cases hk : (s.getV x).toNat < 16
    · exact .inl ⟨⟨_, hk⟩, rfl, by simpa using h.symm.trans (exec_sknp_slot ⟨_, hk⟩ rfl)⟩
    · exact raised (by simp [mayRaise]) (exec_sknp_outOfRange (by omega))
  | drw x y n =>
    by_cases hr : drawInRange s x y n
    · obtain ⟨m, hm, hd⟩ := exec_drw_inRange hr
      exact .inl ⟨hr, m, hd, by simpa using h.symm.trans hm⟩
    · exact raised (by split <;> simp [mayRaise]) (exec_drw_outOfRange (min_drawRow_lt_of_not_drawInRange hr))
  | ldB x =>
    cases hv : s.cfg.fx33 with
    | refuse => exact raised (by simp [mayRaise]) (exec_ldB_refuse hv x)
    | intended =>
      by_cases hi : s.i.toNat ≤ 0xFFD
      · exact .inl ⟨hi, by simpa using h.symm.trans (exec_ldB_inRange hv x hi)⟩
      · exact raised (by simp [mayRaise]) (exec_ldB_outOfRange hv x (by omega))
  | ldRegs x =>
    cases hv : s.cfg.fx65 with
    | refuse => exact raised (by simp [mayRaise]) (exec_ldRegs_refuse hv x)
    | intended =>
      by_cases hi : s.i.toNat + x.val ≤ 0xFFF
      · obtain ⟨m, hm, hl⟩ := exec_ldRegs_inRange hv x hi
        exact .inl ⟨m, hl, by simpa using h.symm.trans hm⟩
      · exact raised (by simp [mayRaise]) (exec_ldRegs_outOfRange hv x (by omega))
  | _ => exact .inl h

/-- An execute phase that leaves the machine running has completed. -/
theorem exec_completed {i : Instr} {s t : State} (h : exec i s = .next t) (ht : t.run = .running) :
    Completed i s t := by
  rcases exec_cases h with hc | ⟨c, _, rfl⟩
  · exact hc
  · cases ht

end Sys2Proof.Machine

end

section
/-! PROOFS. What a completed execute phase leaves unchanged (the footprints), the PC table of R84, and the faults of
R153. -/

namespace Sys2Proof.Machine

/-! ### One frame rule per state operation: it keeps every footprint that names what it writes -/

section
variable {f : Footprint} {s m t : State}

theorem Footprint.Keeps.trans (h : f.Keeps s m) (k : f.Keeps m t) : f.Keeps s t := by
  obtain ⟨hv, hi, hsp, hstk, hdt, hst, hmem, hfb, hcfg, hrun, hstop, hfault, hkey, hrnd, hrender, hload, hticks⟩ := h
  obtain ⟨kv, ki, ksp, kstk, kdt, kst, kmem, kfb, kcfg, krun, kstop, kfault, kkey, krnd, krender, kload, kticks⟩ := k
  exact ⟨fun r hr => (kv r hr).trans (hv r hr), fun w => (ki w).trans (hi w), fun w => (ksp w).trans (hsp w),
    fun k hk => (kstk k hk).trans (hstk k hk), fun w => (kdt w).trans (hdt w), fun w => (kst w).trans (hst w),
    fun a ha => (kmem a ha).trans (hmem a ha),
    fun px py hx hy hp => (kfb px py (hcfg ▸ hx) (hcfg ▸ hy) hp).trans (hfb px py hx hy hp),
    kcfg.trans hcfg, krun.trans hrun, kstop.trans hstop, kfault.trans hfault, kkey.trans hkey, krnd.trans hrnd,
    krender.trans hrender, kload.trans hload, kticks.trans hticks⟩

theorem Footprint.keeps_setPC (w : Word) : f.Keeps s (s.setPC w) := by simp [Footprint.Keeps]

theorem Footprint.Keeps.advance (h : f.Keeps s t) : f.Keeps s t.advance := h.trans (Footprint.keeps_setPC _)

theorem Footprint.keeps_setV {x : Reg} (hx : f.v x = true) (b : Byte) : f.Keeps s (s.setV x b) := by
  have other : ∀ r : Reg, f.v r = false → (s.setV x b).getV r = s.getV r := fun r hr =>
    s.getV_setV_other x r b fun h => by simp [h, hx] at hr
  simpa [Footprint.Keeps] using other

theorem Footprint.keeps_setI (h : f.i = true) (w : Word) : f.Keeps s (s.setI w) := by simp [Footprint.Keeps, h]

theorem Footprint.keeps_setDT (h : f.dt = true) (b : Byte) : f.Keeps s (s.setDT b) := by simp [Footprint.Keeps, h]

theorem Footprint.keeps_setST (h : f.st = true) (b : Byte) : f.Keeps s (s.setST b) := by simp [Footprint.Keeps, h]

theorem Footprint.keeps_setByte {a : Nat} (h : f.mem a = true) (b : Byte) : f.Keeps s (s.setByte a b) := by
  have other : ∀ q : Nat, f.mem q = false → (s.setByte a b).byteAt q = s.byteAt q := fun q hq =>
    s.byteAt_setByte_other a q b fun e => by simp [e, h] at hq
  simpa [Footprint.Keeps] using other

theorem Footprint.keeps_clearFB (h : ∀ px py, f.fb px py = true) : f.Keeps s s.clearFB := by
  simp [Footprint.Keeps, h]

theorem Footprint.keeps_popped (h : f.sp = true) (w : Word) : f.Keeps s { s with sp := w } := by
  unfold Footprint.Keeps
  simp [h, State.getV, State.byteAt, State.pixel, State.fbIndex]

theorem Footprint.keeps_pushed (h : f.sp = true) {k : Nat} (hk : k < 24) (hstk : f.stk k = true) (w v : Word) :
    f.Keeps s { s with stk := s.stk.set k v, sp := w } := by
  have other : ∀ j : Fin 24, f.stk j.val = false → (s.stk.set k v)[j] = s.stk[j] := fun j hj =>
    Vector.getElem_set_ne hk j.isLt fun e => by simp [← e, hstk] at hj
  unfold Footprint.Keeps
  simpa [h, State.getV, State.byteAt, State.pixel, State.fbIndex] using other

theorem Footprint.keeps_flagThenResult {x : Reg} (hx : f.v x = true) (hf : f.v regF = true) (y : Reg)
    (flag op : Byte → Byte → Byte) : f.Keeps s (s.flagThenResult x y flag op) := by
  simp only [State.flagThenResult]
  split <;> exact (Footprint.keeps_setV hf _).trans (Footprint.keeps_setV hx _)

theorem Footprint.keeps_drawn {box : Nat → Nat → Prop} {bit : Nat → Nat → Bool} (hd : Drawn s t box bit)
    (hf : f.v 15 = true) (hbox : ∀ px py, box px py → f.fb px py = true) : f.Keeps s t := by
  have regs : ∀ r : Reg, f.v r = false → t.getV r = s.getV r := fun r hr =>
    hd.regs r fun e => by simp [e, hf] at hr
  have pixels : ∀ px py : Nat, px < s.cfg.fbW → py < s.cfg.fbH → f.fb px py = false →
      t.pixel px py = s.pixel px py := fun px py hx _ hp =>
    hd.off px py hx fun hb => by simp [hbox px py hb] at hp
  have frame := hd.frame
  unfold Footprint.Keeps
  refine ⟨regs, ?_, ?_, ?_, ?_, ?_, ?_, pixels, ?_⟩ <;> rw [frame] <;> simp [State.byteAt]

theorem Footprint.keeps_regsLoaded {x : Reg} (hl : RegsLoaded s t x) (hv : ∀ r : Reg, r.val ≤ x.val → f.v r = true)
    (hi : f.i = true) : f.Keeps s t := by
  have regs : ∀ r : Reg, f.v r = false → t.getV r = s.getV r := fun r hr =>
    hl.above r (by
      by_contra hle
      simp [hv r (by omega)] at hr)
  have frame := hl.frame
  unfold Footprint.Keeps
  refine ⟨regs, by simp [hi], ?_, ?_, ?_, ?_, ?_, ?_, ?_⟩ <;> rw [frame] <;>
    simp [State.byteAt, State.pixel, State.fbIndex]

end

/-- A completed execute phase keeps everything its footprint does not name. -/
theorem Completed.keeps {i : Instr} {s t : State} (h : Completed i s t) : (footprint i s).Keeps s t := by
  cases i with
  | cls => cases h; exact (Footprint.keeps_clearFB fun _ _ => rfl).advance
  | ret => obtain ⟨n, _, _, rfl⟩ := h; exact (Footprint.keeps_popped rfl _).trans (Footprint.keeps_setPC _)
  | jp nnn => cases h; exact Footprint.keeps_setPC _
  | call nnn =>
    obtain ⟨hsp, rfl⟩ := h
    exact (Footprint.keeps_pushed rfl hsp (beq_self_eq_true _) _ _).trans (Footprint.keeps_setPC _)
  | seImm x nn => cases h; exact Footprint.keeps_setPC _
  | sneImm x nn => cases h; exact Footprint.keeps_setPC _
  | ldImm x nn => cases h; exact (Footprint.keeps_setV (beq_self_eq_true x) _).advance
  | addImm x nn => cases h; exact (Footprint.keeps_setV (beq_self_eq_true x) _).advance
  | ldReg x y => cases h; exact (Footprint.keeps_setV (beq_self_eq_true x) _).advance
  | andReg x y => cases h; exact (Footprint.keeps_setV (beq_self_eq_true x) _).advance
  | addReg x y =>
    cases h
    exact (Footprint.keeps_flagThenResult (by simp [footprint, Footprint.regAndFlag])
      (by simp [footprint, Footprint.regAndFlag]) _ _ _).advance
  | subReg x y =>
    cases h
    exact (Footprint.keeps_flagThenResult (by simp [footprint, Footprint.regAndFlag])
      (by simp [footprint, Footprint.regAndFlag]) _ _ _).advance
  | ldI nnn => cases h; exact (Footprint.keeps_setI rfl _).advance
  | rnd x nn => cases h; exact (Footprint.keeps_setV (beq_self_eq_true x) _).advance
  | drw x y n =>
    obtain ⟨_, m, hd, rfl⟩ := h
    exact (Footprint.keeps_drawn hd rfl fun _ _ hb => decide_eq_true hb).advance
  | skp x => obtain ⟨k, _, rfl⟩ := h; exact Footprint.keeps_setPC _
  | sknp x => obtain ⟨k, _, rfl⟩ := h; exact Footprint.keeps_setPC _
  | ldVxDT x => cases h; exact (Footprint.keeps_setV (beq_self_eq_true x) _).advance
  | ldDTVx x => cases h; exact (Footprint.keeps_setDT rfl _).advance
  | ldSTVx x => cases h; exact (Footprint.keeps_setST rfl _).advance
  | addI x => cases h; exact (Footprint.keeps_setI rfl _).advance
  | ldF x => cases h; exact (Footprint.keeps_setI rfl _).advance
  | ldB x =>
    obtain ⟨_, rfl⟩ := h
    have stored : ∀ k ≤ 2, (footprint (.ldB x) s).mem (s.i.toNat + k) = true := fun k hk =>
      decide_eq_true (by simp only [State.eaI]; omega)
    exact ((Footprint.keeps_setByte (stored 0 (by omega)) _).trans
      ((Footprint.keeps_setByte (stored 1 (by omega)) _).trans
        (Footprint.keeps_setByte (stored 2 (by omega)) _))).advance
  | ldRegs x =>
    obtain ⟨m, hl, rfl⟩ := h
    exact (Footprint.keeps_regsLoaded hl (fun _ hr => decide_eq_true hr) rfl).advance

/-- The frame of every instruction that leaves the machine running. -/
theorem exec_keeps {i : Instr} {s t : State} (h : exec i s = .next t) (ht : t.run = .running) :
    (footprint i s).Keeps s t :=
  (exec_completed h ht).keeps

/-- Whatever the instruction, completing changes no configuration, control or input. -/
theorem Completed.controls {i : Instr} {s t : State} (h : Completed i s t) :
    t.cfg = s.cfg ∧ t.run = s.run ∧ t.stopReq = s.stopReq ∧ t.fault = s.fault ∧ t.key = s.key ∧ t.rnd = s.rnd ∧
    t.render = s.render ∧ t.loadOpen = s.loadOpen ∧ t.ticks = s.ticks := by
  obtain ⟨-, -, -, -, -, -, -, -, controls⟩ := h.keeps
  exact controls

/-! ### The program counter -/

theorem pcSkip_eq (taken : Bool) (pc : Word) : pcSkip taken pc = if taken then pc + 4 else pc + 2 := by
  apply BitVec.eq_of_toNat_eq
  cases taken <;> simp [pcSkip, BitVec.toNat_add]

theorem addr16_eq (nnn : BitVec 12) : addr16 nnn = BitVec.ofNat 16 nnn.toNat := by
  apply BitVec.eq_of_toNat_eq
  simp [addr16]

/-- A completed execute phase sets PC as the table of R84 says. -/
theorem Completed.pc {i : Instr} {s t : State} (h : Completed i s t) : t.pc = nextPC i s := by
  cases i with
  | ret =>
    obtain ⟨n, hn, hsp, rfl⟩ := h
    apply BitVec.eq_of_toNat_eq
    simp [nextPC, hsp, hn, BitVec.toNat_add, Vector.getD]
  | jp nnn => cases h; exact addr16_eq nnn
  | call nnn => obtain ⟨_, rfl⟩ := h; exact addr16_eq nnn
  | seImm x nn => cases h; rw [nextPC, pcSkip_eq]; rfl
  | sneImm x nn => cases h; simp [nextPC, pcSkip_eq]
  | skp x =>
    obtain ⟨k, hk, rfl⟩ := h
    simp [nextPC, pcSkip_eq, hk, Vector.getD]
  | sknp x =>
    obtain ⟨k, hk, rfl⟩ := h
    simp [nextPC, pcSkip_eq, hk, Vector.getD]
  | addReg x y => cases h; simp [nextPC, pcSkip_eq]
  | subReg x y => cases h; simp [nextPC, pcSkip_eq]
  | drw x y n =>
    obtain ⟨_, m, hd, rfl⟩ := h
    rw [nextPC, pcSkip_eq, State.advance_pc, hd.frame]
    rfl
  | ldB x => obtain ⟨_, rfl⟩ := h; rw [nextPC, pcSkip_eq]; rfl
  | ldRegs x =>
    obtain ⟨m, hl, rfl⟩ := h
    rw [nextPC, pcSkip_eq, State.advance_pc, hl.frame]
    rfl
  | _ => cases h; rw [nextPC, pcSkip_eq]; rfl

end Sys2Proof.Machine

open Sys2Proof Sys2Proof.Machine

/-- Settles O44: the general frame `exec_keeps`, at the control transfers. -/
theorem frameOfControlTransfer : Obligations.FrameOfControlTransfer :=
  fun _ _ _ _ _ h ht => exec_keeps h ht

/-- Settles O45: the general frame `exec_keeps`, at the register instructions. -/
theorem frameOfRegisterInstructions : Obligations.FrameOfRegisterInstructions :=
  fun _ _ _ _ _ h ht => exec_keeps h ht

/-- Settles O46: the general frame `exec_keeps`, at the index and memory instructions. -/
theorem frameOfIndexInstructions : Obligations.FrameOfIndexInstructions :=
  fun _ _ _ _ _ h ht => exec_keeps h ht

/-- Settles O47: the general frame `exec_keeps`, at the framebuffer instructions. -/
theorem frameOfFramebufferInstructions : Obligations.FrameOfFramebufferInstructions :=
  fun _ _ _ _ _ h ht => exec_keeps h ht

/-- Settles O48: the general frame `exec_keeps`, at the input and timer instructions. -/
theorem frameOfInputAndTimerInstructions : Obligations.FrameOfInputAndTimerInstructions :=
  fun _ _ _ _ _ h ht => exec_keeps h ht

/-- Settles O16: a completed phase follows the table (`Completed.pc`), and a precise fault leaves PC alone. -/
theorem nextPCFollowsTheTable : Obligations.NextPCFollowsTheTable := by
  intro i s t hs h
  refine ⟨fun ht => (exec_completed h ht).pc, fun ht hw => ?_⟩
  rcases exec_cases h with hc | ⟨c, _, rfl⟩
  · obtain ⟨-, hrun, -⟩ := hc.controls
    cases hs.symm.trans (hrun.symm.trans ht)
  · rw [s.faulted_precise c hw]

/-- Settles O17: an execute phase that stops the machine has not completed, so it took a listed fault. -/
theorem execFaultsAsListed : Obligations.ExecFaultsAsListed := by
  intro i s t hs h ht
  rcases exec_cases h with hc | ⟨c, hmem, rfl⟩
  · obtain ⟨-, hrun, -⟩ := hc.controls
    cases hs.symm.trans (hrun.symm.trans ht)
  · exact ⟨hmem, fun hw => s.faulted_precise c hw⟩

end

section
/-! PROOFS. The step (40_step_cycle.md): what one tick can do, the phases around the execute phase, and the stops. -/

namespace Sys2Proof.Machine

/-- The state after a completed execute phase of `i` left `m`: timers, render signal, wait (R82). -/
def State.stepEnd (i : Instr) (m : State) : State := State.awaitTick { m.tickTimers with render := signalsRender i }

@[simp] theorem State.stepEnd_cfg (i : Instr) (m : State) : (m.stepEnd i).cfg = m.cfg := rfl
@[simp] theorem State.pixel_stepEnd (i : Instr) (m : State) (px py : Nat) :
    (m.stepEnd i).pixel px py = m.pixel px py := rfl

@[simp] theorem State.wentWrong_awaitTick (s : State) : s.awaitTick.wentWrong = s.wentWrong := by
  rw [State.wentWrong, State.awaitTick_fault, State.wentWrong]

@[simp] theorem State.wentWrong_lowerRender (s : State) : s.lowerRender.wentWrong = s.wentWrong := by
  rw [State.wentWrong, State.lowerRender_fault, State.wentWrong]

@[simp] theorem State.wentWrong_faulted (c : Cause) (s : State) : (s.faulted c).wentWrong = c.unspecified := rfl

/-- A step of `i` completes it, or takes one of its faults. -/
theorem step_about {i : Instr} {s t : State} (ha : s.about i) (h : step s = .next t) :
    (∃ m : State, Completed i s.lowerRender m ∧ m.run = .running ∧ t = m.stepEnd i) ∨
    ∃ c ∈ mayRaise i, t = (s.lowerRender.faulted c).awaitTick := by
  obtain ⟨hr, hs, hi⟩ := ha
  rw [step_exec hr hs hi] at h
  cases he : exec i s.lowerRender with
  | next m =>
    rw [he] at h
    cases h
    rcases exec_cases he with hc | ⟨c, hc, rfl⟩
    · obtain ⟨-, hrun, -⟩ := hc.controls
      have hm : m.run = .running := hrun.trans hr
      exact .inl ⟨m, hc, hm, by rw [State.afterExec_running i m hm]; rfl⟩
    · exact .inr ⟨c, hc, by rw [State.afterExec_stopped i _ rfl]⟩
  | fault r => simp [he] at h
  | refused r => simp [he] at h

/-- Everything a tick can do when it has a next state: idle, obey a stop request, take a fault, complete an
instruction. -/
theorem step_outcome {s t : State} (h : step s = .next t) :
    (s.run = .stopped ∧ t = s.lowerRender.awaitTick) ∨
    (s.run = .running ∧ t = State.awaitTick { s.lowerRender with run := .stopped }) ∨
    (s.run = .running ∧ ∃ c : Cause, t = (s.lowerRender.faulted c).awaitTick) ∨
    (∃ (i : Instr) (m : State), s.about i ∧ s.pc.toNat ≤ 0xFFE ∧ Completed i s.lowerRender m ∧ t = m.stepEnd i) := by
  rcases step_cases h with h | ⟨hr, _, ht⟩ | ⟨hr, _, _, ht⟩ | ⟨hr, _, _, _, ht⟩ | ⟨i, _, ha, hp, _⟩
  · exact .inl h
  · exact .inr (.inl ⟨hr, ht⟩)
  · exact .inr (.inr (.inl ⟨hr, _, ht⟩))
  · exact .inr (.inr (.inl ⟨hr, _, ht⟩))
  · rcases step_about ha h with ⟨m, hm, _, ht⟩ | ⟨c, _, ht⟩
    · exact .inr (.inr (.inr ⟨i, m, ha, hp, hm, ht⟩))
    · exact .inr (.inr (.inl ⟨ha.1, c, ht⟩))

/-- R85: a timer loses one when it is above 0. -/
theorem tickDown_toNat (b : Byte) : (tickDown b).toNat = b.toNat - 1 := by
  simp only [tickDown]
  split
  · next h => simp [h]
  · next h => bv_omega

/-- R87: which instructions signal. -/
theorem signalsRender_iff (i : Instr) : signalsRender i = true ↔ i = .cls ∨ ∃ x y n, i = .drw x y n := by
  cases i <;> simp [signalsRender]

/-- After a fault the render line is low. -/
theorem State.render_faulted_awaitTick (s : State) (c : Cause) :
    (s.lowerRender.faulted c).awaitTick.render = false := by
  rw [State.awaitTick_render, State.faulted_render, State.lowerRender_render]

/-- A precise fault of a tick changes RUN and FAULT, and the inputs, the step count and the render line move. -/
theorem State.sameMachine_faulted (s : State) {c : Cause} (h : c.unspecified = false) :
    State.sameMachine { s with run := .stopped, fault := c } (s.lowerRender.faulted c).awaitTick := by
  rw [s.lowerRender.faulted_precise c h]
  rfl

end Sys2Proof.Machine

open Sys2Proof Sys2Proof.Machine

/-- Settles O8: the two bytes at PC, or `State.fetch16_outOfRange`. -/
theorem fetchIsBigEndian : Obligations.FetchIsBigEndian := fun s =>
  ⟨fun h => ⟨_, s.fetch16_inRange h, wordOfBytes_toNat _ _⟩, s.fetch16_outOfRange⟩

/-- Settles O9: the law of a decoded step, `step_exec`. -/
theorem stepRunsTheDecodedInstruction : Obligations.StepRunsTheDecodedInstruction :=
  fun _ _ ⟨hr, hs, hi⟩ _ => step_exec hr hs hi

/-- Settles O10: a STOPPED machine only lowers the render line and waits (`step_stopped`). -/
theorem stoppedTickKeepsTheMachine : Obligations.StoppedTickKeepsTheMachine := fun _ h =>
  ⟨_, step_stopped h, rfl, rfl⟩

/-- Settles O11: the loop top writes RUN alone (`step_stopRequest`). -/
theorem stopRequestStopsAtLoopTop : Obligations.StopRequestStopsAtLoopTop := fun _ h hs =>
  ⟨_, step_stopRequest h hs, rfl, rfl⟩

/-- Settles O12: NotImplemented is a precise fault. -/
theorem unimplementedWordStops : Obligations.UnimplementedWordStops := fun s h hs hp hi =>
  ⟨_, step_notImplemented h hs hp hi, s.sameMachine_faulted rfl, s.render_faulted_awaitTick _⟩

/-- Settles O13: FetchRange is a precise fault. -/
theorem fetchRangeStops : Obligations.FetchRangeStops := fun s h hs hp =>
  ⟨_, step_fetchRange h hs hp, s.sameMachine_faulted rfl, s.render_faulted_awaitTick _⟩

/-- Settles O14: a completed phase has left each timer as it was or loaded it, and phase S4 takes one; a precise fault
skips S4. -/
theorem timersTickOncePerExecutedStep : Obligations.TimersTickOncePerExecutedStep := by
  intro s t i ha h
  rcases step_about ha h with ⟨m, hm, hrun, rfl⟩ | ⟨c, _, rfl⟩
  · refine ⟨fun _ => ?_, fun ht => nomatch hrun.symm.trans ht⟩
    obtain ⟨-, -, -, -, hdt, hst, -⟩ := hm.keeps
    have ticked {b b' : Byte} (h : b = b') : (tickDown b).toNat = b'.toNat - 1 := h ▸ tickDown_toNat b
    cases i with
    | ldDTVx x => cases hm; exact ⟨ticked rfl, ticked rfl⟩
    | ldSTVx x => cases hm; exact ⟨ticked rfl, ticked rfl⟩
    | _ => exact ⟨ticked (hdt rfl), ticked (hst rfl)⟩
  · refine ⟨nofun, fun _ hw => ?_⟩
    rw [s.lowerRender.faulted_precise c hw]
    exact ⟨rfl, rfl⟩

/-- Settles O15: a completed step drives the line as `signalsRender` says; a fault leaves it low and the machine
stopped. -/
theorem renderSignalsExactlyDraws : Obligations.RenderSignalsExactlyDraws := by
  intro s t i ha h
  rcases step_about ha h with ⟨m, _, hrun, rfl⟩ | ⟨c, _, rfl⟩
  · exact (signalsRender_iff i).trans (and_iff_right hrun).symm
  · simp

/-- Settles O21: `start` tests the cause, and a STOPPED machine idles. -/
theorem unspecifiedFaultIsFinal : Obligations.UnspecifiedFaultIsFinal := fun _ hw hr =>
  ⟨if_pos hw, _, step_stopped hr, by simpa using hw, by simpa using hr⟩

/-- Settles O53: no outcome of a tick touches the configuration. -/
theorem stepKeepsConfig : Obligations.StepKeepsConfig := by
  intro s t h
  rcases step_outcome h with ⟨_, rfl⟩ | ⟨_, rfl⟩ | ⟨_, c, rfl⟩ | ⟨i, m, _, _, hm, rfl⟩
  · simp
  · simp
  · simp
  · obtain ⟨hcfg, -⟩ := hm.controls
    simpa using hcfg

/-- Settles O55: only a completed instruction changes a pixel, and every footprint but those of 00E0 and Dxyn keeps
them all. -/
theorem onlyDrawsWriteTheFramebuffer : Obligations.OnlyDrawsWriteTheFramebuffer := by
  intro s t px py h hw hx hy hne
  rcases step_outcome h with ⟨_, rfl⟩ | ⟨_, rfl⟩ | ⟨_, c, rfl⟩ | ⟨i, m, ha, _, hm, rfl⟩
  · exact absurd (by simp) hne
  · exact absurd (State.pixel_awaitTick _ px py) hne
  · rw [State.pixel_awaitTick, s.lowerRender.faulted_precise c (by simpa using hw)] at hne
    exact absurd rfl hne
  · obtain ⟨-, -, -, -, -, -, -, hfb, -⟩ := hm.keeps
    rw [State.pixel_stepEnd] at hne
    cases i with
    | cls => exact ⟨.inl ha, rfl⟩
    | drw x y n => exact ⟨.inr ⟨x, y, n, ha⟩, rfl⟩
    | _ => exact absurd (hfb px py hx hy rfl) hne

end

section
/-! PROOFS. The invariants of the machine (10_state.md sections 4, 5 and 7, 20_memory.md section 1): they hold at reset,
and every step and every move of the host keeps them. -/

namespace Sys2Proof.Machine

/-! ### `Inv` through the parts of a step -/

/-- A machine that runs has not gone wrong: both invariants say that one gone wrong is STOPPED. -/
theorem State.wentWrong_of_running {s : State} (hstop : s.wentWrong = true → s.run = .stopped) (hr : s.run = .running) :
    s.wentWrong = false := by
  cases hw : s.wentWrong with
  | false => rfl
  | true => cases hr.symm.trans (hstop hw)

theorem State.faulted_mem_unspecified (s : State) {c : Cause} (h : c.unspecified = true) :
    (s.faulted c).mem = Memory.ofFn (initialByte s.cfg) memSize (Config.unspecMem s.ticks) := by
  simp only [State.faulted, h, if_true, State.unspecify]

theorem State.faulted_fb_unspecified (s : State) {c : Cause} (h : c.unspecified = true) :
    (s.faulted c).fb = Memory.ofFn initialPixel (s.cfg.fbW * s.cfg.fbH)
      (fun p => if Config.unspecPixel s.ticks p then pixOn else pixOff) := by
  simp only [State.faulted, h, if_true, State.unspecify]

/-- The free memory of an unspecified fault is canonical. -/
theorem State.faulted_memInv (s : State) {c : Cause} (h : c.unspecified = true) : (s.faulted c).memInv := by
  rw [State.memInv, s.faulted_mem_unspecified h, State.faulted_cfg]
  exact Memory.wf_ofFn _ _

/-- The free pixels of an unspecified fault are canonical, and on or off. -/
theorem State.faulted_fbInv (s : State) {c : Cause} (h : c.unspecified = true) : (s.faulted c).fbInv := by
  rw [State.fbInv, s.faulted_fb_unspecified h, State.faulted_cfg]
  refine ⟨Memory.wf_ofFn _ _, fun e he => ?_⟩
  obtain ⟨hval, hoff⟩ := Memory.mem_ofFn _ _ e he
  simp only [initialPixel, ne_eq, ite_eq_right_iff, Classical.not_imp] at hoff
  rw [hval, if_pos hoff.1]

/-! What the three parts of `Inv` read. -/

theorem State.memInv.congr {s t : State} (h : s.memInv) (hcfg : t.cfg = s.cfg) (hmem : t.mem = s.mem) : t.memInv := by
  rwa [State.memInv, hcfg, hmem]

theorem State.fbInv.congr {s t : State} (h : s.fbInv) (hcfg : t.cfg = s.cfg) (hfb : t.fb = s.fb) : t.fbInv := by
  rwa [State.fbInv, hcfg, hfb]

theorem State.stackInv.congr {s t : State} (h : s.stackInv) (hsp : t.sp = s.sp) (hrun : t.run = s.run)
    (hfault : t.fault = s.fault) : t.stackInv := by
  rwa [State.stackInv, State.wentWrong, hsp, hrun, hfault]

theorem State.Inv.congr {s t : State} (h : s.Inv) (hcfg : t.cfg = s.cfg) (hmem : t.mem = s.mem) (hfb : t.fb = s.fb)
    (hsp : t.sp = s.sp) (hrun : t.run = s.run) (hfault : t.fault = s.fault) : t.Inv := by
  obtain ⟨invMem, invFb, invStack⟩ := h
  exact ⟨invMem.congr hcfg hmem, invFb.congr hcfg hfb, invStack.congr hsp hrun hfault⟩

theorem State.Inv.faulted {s : State} (h : s.Inv) (hr : s.run = .running) (c : Cause) : (s.faulted c).Inv := by
  obtain ⟨hmem, hfb, hstop, hsp⟩ := h
  have hw := State.wentWrong_of_running hstop hr
  cases hc : c.unspecified with
  | false =>
    rw [s.faulted_precise c hc]
    exact ⟨hmem.congr rfl rfl, hfb.congr rfl rfl, fun _ => rfl, fun _ => hsp hw⟩
  | true => exact ⟨s.faulted_memInv hc, s.faulted_fbInv hc, fun _ => rfl, fun hn => (nomatch hc.symm.trans hn)⟩

/-- A write to a valid address keeps the canonical form of MEM. -/
theorem State.memInv.setByte {s : State} (h : s.memInv) {a : Nat} (ha : a < memSize) (b : Byte) :
    (s.setByte a b).memInv :=
  Memory.wf_write h a ha b

/-- Every completed execute phase keeps the invariant. -/
theorem Completed.inv {i : Instr} {s t : State} (hc : Completed i s t) (h : s.Inv) : t.Inv := by
  have ⟨hmem, hfb, hstack⟩ := h
  have ⟨hstop, _⟩ := hstack
  cases i with
  | cls => cases hc; exact ⟨hmem.congr rfl rfl, ⟨Memory.wf_nil _, by simp⟩, hstack.congr rfl rfl rfl⟩
  | ret =>
    obtain ⟨n, hn, hcount, rfl⟩ := hc
    refine ⟨hmem.congr rfl rfl, hfb.congr rfl rfl, hstop, fun _ => ?_⟩
    simp only [State.setPC_sp, stackDepth]
    bv_omega
  | call nnn =>
    obtain ⟨hroom, rfl⟩ := hc
    refine ⟨hmem.congr rfl rfl, hfb.congr rfl rfl, hstop, fun _ => ?_⟩
    simp only [State.setPC_sp, stackDepth]
    bv_omega
  | drw x y n =>
    obtain ⟨_, m, hd, rfl⟩ := hc
    have hcanonical := hd.canonical hfb
    rw [← hd.cfg] at hcanonical
    have hframe := hd.frame
    refine ⟨hmem.congr ?_ ?_, State.fbInv.congr hcanonical rfl rfl, hstack.congr ?_ ?_ ?_⟩ <;> rw [hframe] <;> rfl
  | ldB x =>
    obtain ⟨hi, rfl⟩ := hc
    have below : s.i.toNat + 2 < memSize := by
      simp only [memSize]
      omega
    have stored : (s.digitsStored (s.getV x)).memInv :=
      ((hmem.setByte (by omega) _).setByte (by omega) _).setByte below _
    exact ⟨stored.congr rfl rfl, hfb.congr rfl rfl, hstack.congr rfl rfl rfl⟩
  | ldRegs x =>
    obtain ⟨m, hl, rfl⟩ := hc
    rw [hl.frame]
    exact h.congr rfl rfl rfl rfl rfl rfl
  | skp x => obtain ⟨k, _, rfl⟩ := hc; exact h.congr rfl rfl rfl rfl rfl rfl
  | sknp x => obtain ⟨k, _, rfl⟩ := hc; exact h.congr rfl rfl rfl rfl rfl rfl
  | addReg x y => cases hc; exact h.congr (by simp) (by simp) (by simp) (by simp) (by simp) (by simp)
  | subReg x y => cases hc; exact h.congr (by simp) (by simp) (by simp) (by simp) (by simp) (by simp)
  | _ => cases hc; exact h.congr rfl rfl rfl rfl rfl rfl

/-! ### `pcInv` through the parts of a step -/

theorem pcSkip_le (taken : Bool) (pc : Word) : (pcSkip taken pc).toNat ≤ pc.toNat + 4 := by
  simp only [pcSkip, BitVec.toNat_ofNat]
  split <;> omega

/-- R91: from a PC that was fetched from, and from call sites that were, the table of R84 reaches 0x1002 at most. -/
theorem nextPC_le {s : State} (hpc : s.pc.toNat ≤ 0xFFE) (hstk : ∀ k : Fin 24, s.stk[k].toNat ≤ 0xFFE) (i : Instr) :
    (nextPC i s).toNat ≤ 0x1002 := by
  have skip (c : Bool) : (pcSkip c s.pc).toNat ≤ 0x1002 := (pcSkip_le c s.pc).trans (by omega)
  cases i with
  | jp nnn => simp only [nextPC, BitVec.toNat_ofNat]; omega
  | call nnn => simp only [nextPC, BitVec.toNat_ofNat]; omega
  | ret =>
    have entry : (s.stk.getD (s.sp.toNat - 1) 0).toNat ≤ 0xFFE := by
      simp only [Vector.getD, Array.getD]
      split
      · next hk => exact hstk ⟨_, by simpa using hk⟩
      · simp
    simp only [nextPC, BitVec.toNat_ofNat]
    omega
  | _ => exact skip _

/-- The only entry an execute phase can write holds its own PC (R102). -/
theorem Completed.stk {i : Instr} {s t : State} (h : Completed i s t) (k : Fin 24) :
    t.stk[k] = s.stk[k] ∨ t.stk[k] = s.pc := by
  obtain ⟨-, -, -, hstk, -⟩ := h.keeps
  cases i with
  | call nnn =>
    obtain ⟨hroom, rfl⟩ := h
    by_cases hk : s.sp.toNat = k.val
    · exact .inr (by simp [hk])
    · exact .inl (Vector.getElem_set_ne hroom k.isLt hk)
  | _ => exact .inl (hstk k rfl)

/-- What `pcInv` reads. -/
theorem State.pcInv.congr {s t : State} (h : s.pcInv) (hpc : t.pc = s.pc) (hstk : t.stk = s.stk) (hrun : t.run = s.run)
    (hfault : t.fault = s.fault) : t.pcInv := by
  rwa [State.pcInv, State.wentWrong, hpc, hstk, hrun, hfault]

theorem State.pcInv.faulted {s : State} (h : s.pcInv) (hr : s.run = .running) (c : Cause) : (s.faulted c).pcInv := by
  obtain ⟨hstop, hbound⟩ := h
  have hw := State.wentWrong_of_running hstop hr
  refine ⟨fun _ => rfl, fun hc => ?_⟩
  rw [s.faulted_precise c hc]
  exact hbound hw

/-- A completed execute phase of a fetched instruction keeps PC and the stack bounded. -/
theorem Completed.pcInv {i : Instr} {s t : State} (hc : Completed i s t) (h : s.pcInv) (hr : s.run = .running)
    (hpc : s.pc.toNat ≤ 0xFFE) : t.pcInv := by
  obtain ⟨hstop, hbound⟩ := h
  have hw := State.wentWrong_of_running hstop hr
  obtain ⟨-, hstk⟩ := hbound hw
  have htw : t.wentWrong = false := by
    obtain ⟨-, -, -, hfault, -⟩ := hc.controls
    rwa [State.wentWrong, hfault]
  refine ⟨fun hn => (nomatch htw.symm.trans hn), fun _ => ⟨?_, fun k => ?_⟩⟩
  · rw [hc.pc]
    exact nextPC_le hpc hstk i
  · rcases hc.stk k with hk | hk
    · rw [hk]; exact hstk k
    · rw [hk]; exact hpc

/-! ### There is always an answer -/

theorem State.settle_answers (s : State) (r : Except Cause State) : ∃ t : State, s.settle r = .next t := by
  cases r with
  | ok t => exact ⟨t, rfl⟩
  | error c => exact ⟨s.faulted c, rfl⟩

/-- With at most 24 entries in use every execute phase has a next state. -/
theorem exec_answers (i : Instr) {s : State} (h : s.sp.toNat ≤ 24) : ∃ t : State, exec i s = .next t := by
  cases i with
  | ret =>
    by_cases h0 : s.sp.toNat = 0
    · exact ⟨_, (exec_ret s).trans (s.pop_empty _ (by bv_omega))⟩
    · exact ⟨_, (exec_ret s).trans (s.pop_entry _ (s.sp.toNat - 1) (by omega) (by omega))⟩
  | call nnn =>
    by_cases hroom : s.sp.toNat < 24
    · exact ⟨_, (exec_call nnn s).trans (s.push_room _ _ hroom)⟩
    · exact ⟨_, (exec_call nnn s).trans (s.push_full _ _ (by bv_omega))⟩
  | skp x => exact s.settle_answers _
  | sknp x => exact s.settle_answers _
  | drw x y n => exact s.settle_answers _
  | ldB x =>
    cases hv : s.cfg.fx33 with
    | refuse => exact ⟨_, exec_ldB_refuse hv x⟩
    | intended => rw [exec_ldB_intended hv]; exact s.settle_answers _
  | ldRegs x =>
    cases hv : s.cfg.fx65 with
    | refuse => exact ⟨_, exec_ldRegs_refuse hv x⟩
    | intended => rw [exec_ldRegs_intended hv]; exact s.settle_answers _
  | _ => exact ⟨_, rfl⟩

end Sys2Proof.Machine

open Sys2Proof Sys2Proof.Machine

/-- Settles O49: each of the four outcomes of a tick keeps `Inv`. -/
theorem stepKeepsInv : Obligations.StepKeepsInv := by
  intro s t h hstep
  have low : s.lowerRender.Inv := h.congr rfl rfl rfl rfl rfl rfl
  rcases step_outcome hstep with ⟨_, rfl⟩ | ⟨_, rfl⟩ | ⟨hr, c, rfl⟩ | ⟨i, m, _, _, hm, rfl⟩
  · exact low.congr rfl rfl rfl rfl rfl rfl
  · obtain ⟨hmem, hfb, -, hsp⟩ := low
    exact ⟨hmem.congr rfl rfl, hfb.congr rfl rfl, fun _ => rfl, hsp⟩
  · exact (low.faulted hr c).congr rfl rfl rfl rfl rfl rfl
  · exact (hm.inv low).congr rfl rfl rfl rfl rfl rfl

/-- Settles O50: each of the four outcomes of a tick keeps `pcInv`; only a fetched instruction moves PC. -/
theorem stepKeepsPCBounded : Obligations.StepKeepsPCBounded := by
  intro s t h hstep
  have low : s.lowerRender.pcInv := h.congr rfl rfl rfl rfl
  rcases step_outcome hstep with ⟨_, rfl⟩ | ⟨_, rfl⟩ | ⟨hr, c, rfl⟩ | ⟨i, m, ⟨hr, _⟩, hpc, hm, rfl⟩
  · exact low.congr rfl rfl rfl rfl
  · obtain ⟨-, hbound⟩ := low
    exact ⟨fun _ => rfl, hbound⟩
  · exact (low.faulted hr c).congr rfl rfl rfl rfl
  · exact (hm.pcInv low hr hpc).congr rfl rfl rfl rfl

/-- Settles O52: a STOPPED machine, a stop request and a fetch that fails all answer, and under `Inv` so does every
execute phase (`exec_answers`). -/
theorem stepAlwaysAnswers : Obligations.StepAlwaysAnswers := by
  intro s h
  cases hr : s.run with
  | stopped => exact ⟨_, step_stopped hr⟩
  | running =>
    cases hs : s.stopReq with
    | true => exact ⟨_, step_stopRequest hr hs⟩
    | false =>
      by_cases hp : 0xFFE < s.pc.toNat
      · exact ⟨_, step_fetchRange hr hs hp⟩
      · cases hi : s.nextInstr with
        | none => exact ⟨_, step_notImplemented hr hs (by omega) hi⟩
        | some i =>
          obtain ⟨-, -, hstop, hsp⟩ := h
          have hw := State.wentWrong_of_running hstop hr
          obtain ⟨m, hm⟩ := exec_answers i (s := s.lowerRender) (hsp hw)
          exact ⟨_, by rw [step_exec hr hs hi, hm]⟩

end

section
/-! PROOFS. Reset and the moves of the host and the collaborator (10_state.md sections 9 and 10, 20_memory.md
section 2). -/

namespace Sys2Proof.Machine

/-! ### Reset -/

theorem State.reset_mem : State.reset.mem = [] := rfl

theorem State.reset_fb : State.reset.fb = [] := rfl

/-- Reset memory is the initial contents. -/
theorem State.byteAt_reset (a : Nat) : State.reset.byteAt a = initialByte State.reset.cfg a := by
  rw [State.byteAt, State.reset_mem, Memory.read]

theorem initialByte_font (cfg : Config) (k : Fin 80) : initialByte cfg (0x050 + k.val) = cfg.font[k] := by
  have hk : fontBase ≤ 0x050 + k.val ∧ 0x050 + k.val < fontBase + fontLen := by
    simp only [fontBase, fontLen]
    omega
  rw [initialByte, if_pos hk]
  simp [fontByte, fontBase, Vector.getD]

theorem initialByte_outside (cfg : Config) {a : Nat} (h : a < 0x050 ∨ 0x0A0 ≤ a) : initialByte cfg a = 0x00 := by
  have ha : ¬(fontBase ≤ a ∧ a < fontBase + fontLen) := by
    simp only [fontBase, fontLen]
    omega
  rw [initialByte, if_neg ha]

/-! ### `start`, `stop` and `rom_load`: when they answer, and with what -/

theorem State.start_next {s t : State} (h : s.start = .next t) :
    s.wentWrong = false ∧ t = { s with run := .running, stopReq := false, loadOpen := false } := by
  simp only [State.start] at h
  split at h
  · cases h
  · next hw => exact ⟨by simpa [State.wentWrong] using hw, by simpa using h.symm⟩

theorem State.start_admitted {s : State} (h : s.wentWrong = false) :
    s.start = .next { s with run := .running, stopReq := false, loadOpen := false } := by
  rw [State.start, if_neg (by simpa [State.wentWrong] using h)]

theorem State.romLoad_next {s t : State} {bytes : List Byte} (h : State.romLoad bytes s = .next t) :
    bytes.length ≤ progMax ∧
    t = { s with mem := s.mem.writeBytes (initialByte s.cfg) progBase bytes, loadOpen := false } := by
  simp only [State.romLoad] at h
  split at h
  · cases h
  · split at h
    · cases h
    · next hlen => exact ⟨by omega, by simpa using h.symm⟩

theorem State.romLoad_admitted {s : State} {bytes : List Byte} (hr : s.run = .stopped) (ho : s.loadOpen = true)
    (hlen : bytes.length ≤ progMax) : State.romLoad bytes s =
      .next { s with mem := s.mem.writeBytes (initialByte s.cfg) progBase bytes, loadOpen := false } := by
  rw [State.romLoad, if_neg (by simp [hr, ho]), if_neg (by omega)]

theorem State.romLoad_tooLarge {s : State} {bytes : List Byte} (hr : s.run = .stopped) (ho : s.loadOpen = true)
    (hlen : progMax < bytes.length) : State.romLoad bytes s = .refused (.romTooLarge bytes.length) := by
  rw [State.romLoad, if_neg (by simp [hr, ho]), if_pos hlen]

theorem State.romLoad_closed {s : State} {bytes : List Byte} (h : s.run = .running ∨ s.loadOpen = false) :
    State.romLoad bytes s = .refused .loadOutsideBoot := if_pos h

/-! ### Reading after a load -/

variable {d : Nat → Byte}

theorem Memory.read_writeBytes_outside (bs : List Byte) : ∀ (m : Memory) (a q : Nat), q < a ∨ a + bs.length ≤ q →
    (m.writeBytes d a bs).read d q = m.read d q := by
  induction bs with
  | nil => exact fun _ _ _ _ => rfl
  | cons b bs ih =>
    intro m a q hq
    rw [List.length_cons] at hq
    rw [Memory.writeBytes, ih _ _ _ (by omega), Memory.read_write_other _ _ _ _ (by omega)]

theorem Memory.read_writeBytes_inside (bs : List Byte) : ∀ (m : Memory) (a k : Nat) (hk : k < bs.length),
    m.Pairwise (fun c e => c.1 < e.1) → (m.writeBytes d a bs).read d (a + k) = bs[k] := by
  induction bs with
  | nil => exact fun _ _ _ hk => absurd hk (Nat.not_lt_zero _)
  | cons b bs ih =>
    intro m a k hk hm
    rw [Memory.writeBytes]
    cases k with
    | zero =>
      rw [Memory.read_writeBytes_outside _ _ _ _ (.inl (by omega))]
      exact Memory.read_write_same m a b hm
    | succ k =>
      rw [show a + (k + 1) = a + 1 + k by omega]
      exact ih _ _ k (by simpa using hk) (Memory.rising_write m hm a b)

/-! ### Both invariants through the moves -/

theorem State.Inv.start {s t : State} (h : s.Inv) (hs : s.start = .next t) : t.Inv := by
  obtain ⟨hw, rfl⟩ := State.start_next hs
  obtain ⟨hmem, hfb, -, hsp⟩ := h
  exact ⟨hmem.congr rfl rfl, hfb.congr rfl rfl, fun hn => (nomatch hw.symm.trans hn), hsp⟩

theorem State.pcInv.start {s t : State} (h : s.pcInv) (hs : s.start = .next t) : t.pcInv := by
  obtain ⟨hw, rfl⟩ := State.start_next hs
  obtain ⟨-, hbound⟩ := h
  exact ⟨fun hn => (nomatch hw.symm.trans hn), hbound⟩

theorem State.Inv.romLoad {s t : State} {bytes : List Byte} (h : s.Inv) (hl : State.romLoad bytes s = .next t) :
    t.Inv := by
  obtain ⟨hlen, rfl⟩ := State.romLoad_next hl
  obtain ⟨hmem, hfb, hstack⟩ := h
  have hfit : progBase + bytes.length ≤ memSize := by
    simp only [progBase, memSize, progMax] at hlen ⊢
    omega
  exact ⟨Memory.wf_writeBytes bytes progBase hmem hfit, hfb.congr rfl rfl, hstack.congr rfl rfl rfl⟩

theorem State.pcInv.romLoad {s t : State} {bytes : List Byte} (h : s.pcInv) (hl : State.romLoad bytes s = .next t) :
    t.pcInv := by
  obtain ⟨-, rfl⟩ := State.romLoad_next hl
  exact h.congr rfl rfl rfl rfl

end Sys2Proof.Machine

open Sys2Proof Sys2Proof.Machine

/-- Settles O1: the registers are replicated zeros, and memory and pixels are the unlisted values. -/
theorem resetHoldsTheTable : Obligations.ResetHoldsTheTable := by
  refine ⟨fun r => Vector.getElem_replicate _, rfl, rfl, rfl, fun k => Vector.getElem_replicate _, rfl, rfl,
    fun k => ?_, fun a ha => ?_, fun px py => rfl, fun k => Vector.getElem_replicate _, rfl, rfl, rfl⟩
  · rw [State.byteAt_reset, initialByte_font]
  · rw [State.byteAt_reset, initialByte_outside _ ha]

/-- Settles O2: both stores are empty, SP is 0, PC is 0x200 and the stack holds zeros. -/
theorem resetMeetsInv : Obligations.ResetMeetsInv := by
  refine ⟨⟨Memory.wf_nil _, ⟨Memory.wf_nil _, by simp [State.reset_fb]⟩, fun _ => rfl, fun _ => by decide⟩,
    fun _ => rfl, fun _ => ⟨by decide, fun k => ?_⟩⟩
  rw [show State.reset.stk[k] = 0x0000 from Vector.getElem_replicate _]
  decide

/-- Settles O51: a move writes nothing the invariants read, but that `start` needs a machine not gone wrong and
`rom_load` stores below 0x1000. -/
theorem hostMovesKeepInv : Obligations.HostMovesKeepInv := fun _ hi hp =>
  ⟨⟨hi.congr rfl rfl rfl rfl rfl rfl, hp.congr rfl rfl rfl rfl⟩,
    fun _ _ => ⟨hi.congr rfl rfl rfl rfl rfl rfl, hp.congr rfl rfl rfl rfl⟩,
    fun _ h => ⟨hi.start h, hp.start h⟩, fun _ _ h => ⟨hi.romLoad h, hp.romLoad h⟩⟩

/-- Settles O58: what `start` answers when admitted, and `stop`, field by field. -/
theorem startAndStop : Obligations.StartAndStop := fun _ =>
  ⟨fun hw => ⟨_, State.start_admitted hw, rfl, rfl, rfl, rfl⟩, rfl, rfl⟩

/-- Settles O59: the three cases of `rom_load`, and the bytes a load leaves (`Memory.read_writeBytes_inside` and
`Memory.read_writeBytes_outside`). -/
theorem romLoadCopiesVerbatim : Obligations.RomLoadCopiesVerbatim := by
  intro s bytes
  refine ⟨fun hm hr ho hlen => ⟨_, State.romLoad_admitted hr ho hlen, fun k hk => ?_, fun a ha => ?_, rfl⟩,
    State.romLoad_tooLarge, State.romLoad_closed⟩
  · obtain ⟨rising, -⟩ := hm
    exact Memory.read_writeBytes_inside bytes s.mem _ k hk rising
  · exact Memory.read_writeBytes_outside bytes s.mem _ a ha

/-- Settles O60: `fault_cause` is the code of the cause. -/
theorem faultCauseCodes : Obligations.FaultCauseCodes := by
  have code {s : State} {c : Cause} (h : s.fault = c) : s.faultCause = c.code := congrArg Cause.code h
  exact fun _ => ⟨code, code, code, code, code, code, code, code, code, code⟩

end

section
/-! PROOFS. Noninterference (10_state.md sections 6 and 8): no step reads ST or FAULT. One relation serves both:
`s.veil b c` is `s` with another ST and another FAULT, and a step carries a veil to a veil. -/

namespace Sys2Proof.Machine

/-- `s` with ST and FAULT replaced. -/
def State.veil (b : Byte) (c : Cause) (s : State) : State := { s with st := b, fault := c }

/-- The answer `a` is `t` but for ST and FAULT, and there too where the states before agreed: `s` and `s.veil b c`. -/
def AnswersVeiled (s t : State) (b : Byte) (c : Cause) (a : Answer) : Prop :=
  ∃ (b' : Byte) (c' : Cause), a = .next (t.veil b' c') ∧ (b = s.st → b' = t.st) ∧ (c = s.fault → c' = t.fault)

variable (b : Byte) (c : Cause)

/-! ### The shared operations under a veil -/

theorem State.veil_flagThenResult (s : State) (x y : Reg) (flag op : Byte → Byte → Byte) :
    (s.veil b c).flagThenResult x y flag op = (s.flagThenResult x y flag op).veil b c := by
  have order : (s.veil b c).cfg.aliasOrder = s.cfg.aliasOrder := rfl
  simp only [State.flagThenResult, order]
  split <;> rfl

theorem State.veil_storeDigits (s : State) (v : Byte) :
    (s.veil b c).storeDigits v = (s.storeDigits v).map (State.veil b c) := by
  by_cases h : s.i.toNat ≤ 0xFFD
  · rw [State.storeDigits_inRange s v h, State.storeDigits_inRange (s.veil b c) v h]
    rfl
  · rw [State.storeDigits_outOfRange s v (by omega), State.storeDigits_outOfRange (s.veil b c) v (Nat.lt_of_not_le h)]
    rfl

theorem State.veil_fillRegs (count : Nat) : ∀ (k : Nat) (s : State),
    State.fillRegs count k (s.veil b c) = (State.fillRegs count k s).map (State.veil b c) := by
  induction count with
  | zero => exact fun _ _ => rfl
  | succ count ih =>
    intro k s
    have read : (s.veil b c).memRead ((s.veil b c).eaI 0) = s.memRead (s.eaI 0) := rfl
    simp only [State.fillRegs, read]
    cases s.memRead (s.eaI 0) with
    | error e => rfl
    | ok v => exact ih (k + 1) ((s.setV (Fin.ofNat 16 k) v).setI (s.i + 1))

theorem State.veil_noteCollision (s : State) (old new : Byte) :
    (s.veil b c).noteCollision old new = (s.noteCollision old new).veil b c := by
  simp only [State.noteCollision]
  split <;> rfl

theorem State.veil_drawPixel (s : State) (px py : Nat) (new : Byte) :
    (s.veil b c).drawPixel px py new = (s.drawPixel px py new).map (State.veil b c) := by
  have size : (s.veil b c).cfg = s.cfg := rfl
  have pixel : (s.veil b c).pixel px py = s.pixel px py := rfl
  simp only [State.drawPixel, size, pixel, State.veil_noteCollision]
  split <;> rfl

theorem State.veil_drawCols (v : Byte) (x0 py : Nat) (cs : List Nat) : ∀ s : State,
    State.drawCols v x0 py cs (s.veil b c) = (State.drawCols v x0 py cs s).map (State.veil b c) := by
  induction cs with
  | nil => exact fun _ => rfl
  | cons k cs ih =>
    intro s
    simp only [State.drawCols, State.veil_drawPixel]
    cases s.drawPixel (x0 + k) py (spritePixel (spriteBit v k)) with
    | error e => rfl
    | ok t => exact ih t

theorem State.veil_drawRows (x0 y0 : Nat) (count : Nat) : ∀ (row : Nat) (s : State),
    State.drawRows x0 y0 count row (s.veil b c) = (State.drawRows x0 y0 count row s).map (State.veil b c) := by
  induction count with
  | zero => exact fun _ _ => rfl
  | succ count ih =>
    intro row s
    have read : (s.veil b c).memRead ((s.veil b c).eaI row) = s.memRead (s.eaI row) := rfl
    simp only [State.drawRows, read, State.veil_drawCols]
    cases s.memRead (s.eaI row) with
    | error e => rfl
    | ok v =>
      simp only
      cases State.drawCols v x0 (y0 + row) spriteCols s with
      | error e => rfl
      | ok t => exact ih (row + 1) t

theorem State.storeDigits_ok {s t : State} {v : Byte} (h : s.storeDigits v = .ok t) : t = s.digitsStored v := by
  by_cases hi : s.i.toNat ≤ 0xFFD
  · rw [State.storeDigits_inRange s v hi] at h
    cases h
    rfl
  · rw [State.storeDigits_outOfRange s v (by omega)] at h
    cases h

/-! ### The ends of an execute phase under a veil -/

variable {b : Byte} {c : Cause} {s t : State}

/-- A completion that writes neither ST nor FAULT. -/
theorem AnswersVeiled.completed {a : Answer} (ha : a = .next (t.veil b c)) (hst : t.st = s.st)
    (hfault : t.fault = s.fault) : AnswersVeiled s t b c a :=
  ⟨b, c, ha, fun h => h.trans hst.symm, fun h => h.trans hfault.symm⟩

/-- A fault: a precise one keeps the veil on ST, an unspecified one draws ST anew; both write FAULT. -/
theorem AnswersVeiled.faulted {e : Cause} {a : Answer} (ha : a = .next ((s.veil b c).faulted e)) :
    AnswersVeiled s (s.faulted e) b c a := by
  cases he : e.unspecified with
  | false =>
    rw [(s.veil b c).faulted_precise e he] at ha
    rw [s.faulted_precise e he]
    exact ⟨b, e, ha, id, fun _ => rfl⟩
  | true =>
    have drawn : (s.veil b c).faulted e = s.faulted e := by
      simp only [State.faulted, he, if_true]
      rfl
    rw [drawn] at ha
    exact ⟨(s.faulted e).st, e, ha, fun _ => rfl, fun _ => rfl⟩

/-- An execute phase that settles. -/
theorem AnswersVeiled.settle {α : Type} {r : Except Cause α} {f f' : α → State} (h : s.settle (r.map f) = .next t)
    (hf : ∀ u, r = .ok u → f' u = (f u).veil b c ∧ (f u).st = s.st ∧ (f u).fault = s.fault) :
    AnswersVeiled s t b c ((s.veil b c).settle (r.map f')) := by
  cases r with
  | ok u =>
    obtain ⟨hveil, hst, hfault⟩ := hf u rfl
    cases h
    exact .completed (congrArg Host.Outcome.next hveil) hst hfault
  | error e =>
    cases h
    exact .faulted rfl

/-- The operations that carry a veil carry it past the advance. -/
theorem map_veil_advance (r : Except Cause State) :
    (r.map (State.veil b c)).map State.advance = r.map fun u => u.advance.veil b c := by
  cases r <;> rfl

/-- The execute phase carries a veil to a veil. -/
theorem exec_veil {i : Instr} (h : exec i s = .next t) : AnswersVeiled s t b c (exec i (s.veil b c)) := by
  cases i with
  | ret =>
    rcases State.pop_next ((exec_ret s).symm.trans h) with ⟨n, hn, hsp, rfl⟩ | ⟨h0, rfl⟩
    · exact .completed ((exec_ret _).trans ((s.veil b c).pop_entry _ n hn hsp)) rfl rfl
    · exact .faulted ((exec_ret _).trans ((s.veil b c).pop_empty _ (BitVec.eq_of_toNat_eq h0)))
  | call nnn =>
    rcases State.push_next ((exec_call nnn s).symm.trans h) with ⟨hsp, rfl⟩ | ⟨h24, rfl⟩
    · exact .completed ((exec_call nnn _).trans ((s.veil b c).push_room _ _ hsp)) rfl rfl
    · exact .faulted ((exec_call nnn _).trans ((s.veil b c).push_full _ _ (BitVec.eq_of_toNat_eq h24)))
  | addReg x y =>
    cases h
    exact .completed (by rw [exec_addReg, State.veil_flagThenResult]; rfl) (by simp) (by simp)
  | subReg x y =>
    cases h
    exact .completed (by rw [exec_subReg, State.veil_flagThenResult]; rfl) (by simp) (by simp)
  | ldSTVx x => cases h; exact ⟨s.getV x, c, rfl, fun _ => rfl, id⟩
  | skp x => exact .settle h fun _ _ => ⟨rfl, rfl, rfl⟩
  | sknp x => exact .settle h fun _ _ => ⟨rfl, rfl, rfl⟩
  | drw x y n =>
    rw [exec_drw, State.veil_drawRows, map_veil_advance]
    refine .settle h fun u hu => ?_
    have frame := State.drawRows_ok_frame (s := s) (x := x) (y := y) hu
    refine ⟨rfl, ?_, ?_⟩ <;> rw [frame] <;> rfl
  | ldB x =>
    cases hv : s.cfg.fx33 with
    | refuse =>
      cases (exec_ldB_refuse hv x).symm.trans h
      exact .faulted (exec_ldB_refuse (s := s.veil b c) hv x)
    | intended =>
      rw [exec_ldB_intended hv] at h
      rw [exec_ldB_intended (s := s.veil b c) hv, State.veil_storeDigits, map_veil_advance]
      refine .settle h fun u hu => ?_
      rw [State.storeDigits_ok hu]
      exact ⟨rfl, rfl, rfl⟩
  | ldRegs x =>
    cases hv : s.cfg.fx65 with
    | refuse =>
      cases (exec_ldRegs_refuse hv x).symm.trans h
      exact .faulted (exec_ldRegs_refuse (s := s.veil b c) hv x)
    | intended =>
      rw [exec_ldRegs_intended hv] at h
      rw [exec_ldRegs_intended (s := s.veil b c) hv, State.veil_fillRegs, map_veil_advance]
      refine .settle h fun u hu => ?_
      have frame := State.fillRegs_ok_frame hu
      refine ⟨rfl, ?_, ?_⟩ <;> rw [frame] <;> rfl
  | _ => cases h; exact .completed rfl rfl rfl

/-! ### The step under a veil -/

theorem State.veil_lowerRender (s : State) (b : Byte) (c : Cause) :
    (s.veil b c).lowerRender = s.lowerRender.veil b c := rfl

theorem State.veil_awaitTick (s : State) (b : Byte) (c : Cause) : (s.veil b c).awaitTick = s.awaitTick.veil b c := rfl

theorem State.veil_afterExec (i : Instr) (m : State) (b : Byte) (c : Cause) :
    ∃ b' : Byte, (m.veil b c).afterExec i = (m.afterExec i).veil b' c ∧ (b = m.st → b' = (m.afterExec i).st) := by
  cases hr : m.run with
  | stopped =>
    rw [State.afterExec_stopped i m hr, State.afterExec_stopped i (m.veil b c) hr]
    exact ⟨b, rfl, id⟩
  | running =>
    rw [State.afterExec_running i m hr, State.afterExec_running i (m.veil b c) hr]
    exact ⟨tickDown b, rfl, congrArg tickDown⟩

@[simp] theorem State.afterExec_fault (i : Instr) (m : State) : (m.afterExec i).fault = m.fault := by
  cases hr : m.run with
  | stopped => rw [State.afterExec_stopped i m hr]
  | running => rw [State.afterExec_running i m hr, State.tickTimers_fault]

/-- The wait keeps an answer veiled. -/
theorem AnswersVeiled.awaitTick {m m' : State} (h : AnswersVeiled s m b c (.next m')) :
    AnswersVeiled s m.awaitTick b c (.next m'.awaitTick) := by
  obtain ⟨b', c', hm, hst, hfault⟩ := h
  cases hm
  refine ⟨b', c', congrArg Host.Outcome.next (m.veil_awaitTick b' c'), ?_, ?_⟩
  · rwa [State.awaitTick_st]
  · rwa [State.awaitTick_fault]

/-- A fault of a tick. -/
theorem AnswersVeiled.faultedTick (e : Cause) : AnswersVeiled s (s.lowerRender.faulted e).awaitTick b c
    (.next ((s.veil b c).lowerRender.faulted e).awaitTick) :=
  .awaitTick (.faulted (s := s.lowerRender) rfl)

/-- A step carries a veil to a veil: nothing it does depends on ST or FAULT. -/
theorem step_veil (h : step s = .next t) : AnswersVeiled s t b c (step (s.veil b c)) := by
  rcases step_cases h with ⟨hr, rfl⟩ | ⟨hr, hs, rfl⟩ | ⟨hr, hs, hp, rfl⟩ | ⟨hr, hs, hp, hi, rfl⟩ |
    ⟨i, m, ⟨hr, hs, hi⟩, _, hm, rfl⟩
  · rw [step_stopped (s := s.veil b c) hr]
    exact .awaitTick (.completed rfl rfl rfl)
  · rw [step_stopRequest (s := s.veil b c) hr hs]
    exact .awaitTick (.completed rfl rfl rfl)
  · rw [step_fetchRange (s := s.veil b c) hr hs hp]
    exact .faultedTick _
  · rw [step_notImplemented (s := s.veil b c) hr hs hp hi]
    exact .faultedTick _
  · obtain ⟨b1, c1, hexec, hst, hfault⟩ := exec_veil (b := b) (c := c) hm
    obtain ⟨b2, hafter, hst2⟩ := m.veil_afterExec i b1 c1
    rw [step_exec (s := s.veil b c) hr hs hi, State.veil_lowerRender, hexec]
    simp only [hafter]
    refine .awaitTick ⟨b2, c1, rfl, fun hb => hst2 (hst hb), fun hc => ?_⟩
    rw [hfault hc, State.afterExec_fault]

end Sys2Proof.Machine

open Sys2Proof Sys2Proof.Machine

/-- Settles O56: another ST is a veil that agrees on FAULT, and the step keeps that agreement (`step_veil`). -/
theorem soundTimerIsUnobservable : Obligations.SoundTimerIsUnobservable := by
  intro s t b h
  obtain ⟨b', c', hu, _, hfault⟩ := step_veil (b := b) (c := s.fault) h
  obtain rfl := hfault rfl
  exact ⟨_, hu, rfl⟩

/-- Settles O57: another FAULT is a veil that agrees on ST, and the step keeps that agreement (`step_veil`). -/
theorem faultRegisterIsUnobservable : Obligations.FaultRegisterIsUnobservable := by
  intro s t c h
  obtain ⟨b', c', hu, hst, _⟩ := step_veil (b := s.st) (c := c) h
  obtain rfl := hst rfl
  exact ⟨_, hu, rfl⟩

end

section
/-! PROOFS. Calls, the flag arithmetic and the random byte (41_control_transfer.md, 42_register_alu.md). -/

namespace Sys2Proof.Machine

/-! ### 8xy4 and 8xy5: VF, then V[x] (R118) -/

/-- What writing VF and then V[x] leaves, x being 0xF or not. -/
theorem State.flagThenWrite (s : State) (x : Reg) (flag result : Byte) :
    (((s.setV regF flag).setV x result).advance.getV x = result) ∧
    (x ≠ 15 → ((s.setV regF flag).setV x result).advance.getV 15 = flag) ∧
    (∀ r : Reg, r ≠ x → r ≠ 15 → ((s.setV regF flag).setV x result).advance.getV r = s.getV r) ∧
    ((s.setV regF flag).setV x result).advance =
      { s with v := ((s.setV regF flag).setV x result).advance.v, pc := s.pc + 2 } := by
  refine ⟨State.getV_advance_setV_same _ x _, fun hx => ?_, fun r hx hF => ?_, rfl⟩
  · rw [State.getV_advance_setV_other _ x _ _ hx.symm, State.getV_setV_same]
  · rw [State.getV_advance_setV_other _ x _ _ hx, State.getV_setV_other _ _ _ _ hF]

/-- LATCHED: the result is of the old operands. -/
theorem State.flagThenResult_latched {s : State} (h : s.cfg.aliasOrder = .latched) (x y : Reg)
    (flag op : Byte → Byte → Byte) :
    ((s.flagThenResult x y flag op).advance.getV x = op (s.getV x) (s.getV y)) ∧
    (x ≠ 15 → (s.flagThenResult x y flag op).advance.getV 15 = flag (s.getV x) (s.getV y)) ∧
    (∀ r : Reg, r ≠ x → r ≠ 15 → (s.flagThenResult x y flag op).advance.getV r = s.getV r) ∧
    (s.flagThenResult x y flag op).advance =
      { s with v := (s.flagThenResult x y flag op).advance.v, pc := s.pc + 2 } := by
  simp only [State.flagThenResult, h]
  exact s.flagThenWrite x _ _

/-- SEQUENTIAL: the result is of the registers after VF was written. -/
theorem State.flagThenResult_sequential {s : State} (h : s.cfg.aliasOrder = .sequential) (x y : Reg)
    (flag op : Byte → Byte → Byte) :
    ((s.flagThenResult x y flag op).advance.getV x =
      op ((s.setV regF (flag (s.getV x) (s.getV y))).getV x) ((s.setV regF (flag (s.getV x) (s.getV y))).getV y)) ∧
    (x ≠ 15 → (s.flagThenResult x y flag op).advance.getV 15 = flag (s.getV x) (s.getV y)) ∧
    (∀ r : Reg, r ≠ x → r ≠ 15 → (s.flagThenResult x y flag op).advance.getV r = s.getV r) ∧
    (s.flagThenResult x y flag op).advance =
      { s with v := (s.flagThenResult x y flag op).advance.v, pc := s.pc + 2 } := by
  simp only [State.flagThenResult, h]
  exact s.flagThenWrite x _ _

theorem carryFlag_eq (a b : Byte) : carryFlag a b = if a.toNat + b.toNat ≥ 256 then 0x01 else 0x00 := by
  simp only [carryFlag, flagByte, decide_eq_true_eq]

theorem notBorrowFlag_eq (a b : Byte) : notBorrowFlag a b = if a.toNat < b.toNat then 0x00 else 0x01 := by
  by_cases h : a.toNat < b.toNat <;> simp [notBorrowFlag, flagByte, h]

theorem carryFlag_toNat (a b : Byte) : (carryFlag a b).toNat = if a.toNat + b.toNat ≥ 256 then 1 else 0 := by
  rw [carryFlag_eq]
  split <;> rfl

theorem notBorrowFlag_toNat (a b : Byte) : (notBorrowFlag a b).toNat = if a.toNat < b.toNat then 0 else 1 := by
  rw [notBorrowFlag_eq]
  split <;> rfl

/-- R117: the difference of two bytes wraps modulo 256. -/
theorem subByte_toNat (a b : Byte) : (subByte a b).toNat = (a.toNat + 256 - b.toNat) % 256 := by
  simp only [subByte, BitVec.toNat_sub]
  omega

/-- A register read after VF was written. -/
theorem State.getV_setV_regF_toNat (s : State) (r : Reg) (flag : Byte) :
    ((s.setV regF flag).getV r).toNat = if r = 15 then flag.toNat else (s.getV r).toNat := by
  rw [State.getV_setV]
  split <;> rfl

end Sys2Proof.Machine

open Sys2Proof Sys2Proof.Machine

/-- Settles O25: the call left its own address in the entry that the return takes. -/
theorem callThenReturn : Obligations.CallThenReturn := by
  intro s t m nnn _ h ht hsp hstk
  obtain ⟨hroom, rfl⟩ := exec_completed h ht
  simp only [State.setPC_sp, State.setPC_stk] at hsp hstk
  have hcount : m.sp.toNat = s.sp.toNat + 1 := by
    rw [hsp]
    bv_omega
  refine ⟨_, (exec_ret m).trans (m.pop_entry _ _ hroom hcount), ?_, ?_⟩
  · simp only [State.setPC_sp, hsp, BitVec.add_sub_cancel]
  · simp [hstk, BitVec.toNat_add]

/-- Settles O18: the four faults are precise. -/
theorem stackAndKeyLimitsTrap : Obligations.StackAndKeyLimitsTrap := by
  intro s nnn x
  refine ⟨fun h => ?_, fun h => ?_, fun h => ⟨?_, ?_⟩⟩
  · rw [exec_call, s.push_full _ _ h, s.faulted_precise _ rfl]
  · rw [exec_ret, s.pop_empty _ h, s.faulted_precise _ rfl]
  · rw [exec_skp_outOfRange h, s.faulted_precise _ rfl]
  · rw [exec_sknp_outOfRange h, s.faulted_precise _ rfl]

/-- Settles O30: with latched operands the two writes are of values of the old registers. -/
theorem addWithCarryLatched : Obligations.AddWithCarryLatched := by
  intro s x y h
  obtain ⟨hresult, hflag, hother, hframe⟩ := State.flagThenResult_latched h x y carryFlag addByte
  refine ⟨_, exec_addReg x y s, ?_, fun hx => (hflag hx).trans (carryFlag_eq _ _), hother, hframe⟩
  rw [hresult, addByte_toNat]

/-- Settles O31: with latched operands the two writes are of values of the old registers. -/
theorem subWithNotBorrowLatched : Obligations.SubWithNotBorrowLatched := by
  intro s x y h
  obtain ⟨hresult, hflag, hother, hframe⟩ := State.flagThenResult_latched h x y notBorrowFlag subByte
  refine ⟨_, exec_subReg x y s, ?_, fun hx => (hflag hx).trans (notBorrowFlag_eq _ _), hother, hframe⟩
  rw [hresult, subByte_toNat]
  have hx := (s.getV x).isLt
  have hy := (s.getV y).isLt
  split <;> omega

/-- Settles O32: the result is computed from the registers after VF was written (`State.getV_setV_regF_toNat`). -/
theorem sequentialOrderRereads : Obligations.SequentialOrderRereads := by
  intro s x y h
  constructor
  · obtain ⟨hresult, hflag, hother, hframe⟩ := State.flagThenResult_sequential h x y carryFlag addByte
    refine ⟨_, exec_addReg x y s, ⟨?_, fun hx => ?_⟩, hother, hframe⟩
    · rw [hresult, addByte_toNat, State.getV_setV_regF_toNat, State.getV_setV_regF_toNat, carryFlag_toNat]
    · rw [hflag hx, carryFlag_toNat]
  · obtain ⟨hresult, hflag, hother, hframe⟩ := State.flagThenResult_sequential h x y notBorrowFlag subByte
    refine ⟨_, exec_subReg x y s, ⟨?_, fun hx => ?_⟩, hother, hframe⟩
    · rw [hresult, subByte_toNat, State.getV_setV_regF_toNat, State.getV_setV_regF_toNat, notBorrowFlag_toNat]
    · rw [hflag hx, notBorrowFlag_toNat]

/-- Settles O33: one register write of the conjunction with the input byte. -/
theorem randomIsMasked : Obligations.RandomIsMasked := by
  intro s x nn r
  refine ⟨_, exec_rnd x nn _, fun b => ?_, fun q hq => State.getV_advance_setV_other _ x _ q hq, rfl⟩
  rw [State.getV_advance_setV_same, BitVec.getLsbD_and]

end

section
/-! PROOFS. Address register and memory (43_index_and_memory.md): Fx1E, Fx29, Fx33, Fx65. -/

namespace Sys2Proof.Machine

/-- The byte at the lower address is the high byte of the word (R46). -/
theorem wordOfBytes_div (hi lo : Byte) : (wordOfBytes hi lo).toNat / 256 = hi.toNat := by
  rw [wordOfBytes_toNat]
  omega

/-- The byte at the higher address is the low byte of the word (R46). -/
theorem wordOfBytes_mod (hi lo : Byte) : (wordOfBytes hi lo).toNat % 256 = lo.toNat := by
  rw [wordOfBytes_toNat]
  omega

theorem byte16_toNat (b : Byte) : (byte16 b).toNat = b.toNat := BitVec.toNat_setWidth_of_le (by decide)

/-- R122: for all 256 values the glyph address does not wrap. -/
theorem glyphAddr_toNat (b : Byte) : (glyphAddr b).toNat = 0x050 + 5 * b.toNat := by
  simp only [glyphAddr, fontBase, glyphBytes, BitVec.toNat_ofNat]
  omega

/-- The digit of `v` that Fx33 stores `k` bytes from I. -/
def storedDigit (v k : Nat) : Nat := if k = 0 then v / 100 else if k = 1 then v / 10 % 10 else v % 10

/-- R123: the three bytes from I hold the digits. -/
theorem State.byteAt_digitsStored {s : State} (hm : s.memInv) (v : Byte) {a : Nat} (hlow : s.i.toNat ≤ a)
    (hhigh : a ≤ s.i.toNat + 2) : ((s.digitsStored v).byteAt a).toNat = storedDigit v.toNat (a - s.i.toNat) := by
  have hv := v.isLt
  have ⟨rising0, _⟩ := hm
  have rising1 := Memory.rising_write (d := initialByte s.cfg) s.mem rising0 s.i.toNat (digitHundreds v)
  have rising2 := Memory.rising_write (d := initialByte s.cfg) _ rising1 (s.i.toNat + 1) (digitTens v)
  simp only [State.digitsStored, storedDigit]
  obtain rfl | rfl | rfl : a = s.i.toNat ∨ a = s.i.toNat + 1 ∨ a = s.i.toNat + 2 := by omega
  · rw [State.byteAt_setByte_other _ _ _ _ (by omega), State.byteAt_setByte_other _ _ _ _ (by omega),
      State.byteAt_setByte_same _ _ _ rising0, if_pos (by omega), digitHundreds, BitVec.toNat_ofNat]
    omega
  · rw [State.byteAt_setByte_other _ _ _ _ (by omega), State.byteAt_setByte_same _ _ _ rising1, if_neg (by omega),
      if_pos (by omega), digitTens, BitVec.toNat_ofNat]
    omega
  · rw [State.byteAt_setByte_same _ _ _ rising2, if_neg (by omega), if_neg (by omega), digitUnits, BitVec.toNat_ofNat]
    omega

theorem State.byteAt_digitsStored_other (s : State) (v : Byte) {a : Nat} (h : a < s.i.toNat ∨ s.i.toNat + 2 < a) :
    (s.digitsStored v).byteAt a = s.byteAt a := by
  rw [State.digitsStored, State.byteAt_setByte_other _ _ _ _ (by omega), State.byteAt_setByte_other _ _ _ _ (by omega),
    State.byteAt_setByte_other _ _ _ _ (by omega)]

end Sys2Proof.Machine

open Sys2Proof Sys2Proof.Machine

/-- Settles O35: the sum wraps modulo 2^16, the glyph address never does. -/
theorem indexArithmetic : Obligations.IndexArithmetic := by
  intro s x
  refine ⟨⟨_, exec_addI x s, ?_, rfl⟩, ⟨_, exec_ldF x s, glyphAddr_toNat _, rfl⟩⟩
  rw [State.advance_i, State.setI_i, BitVec.toNat_add, byte16_toNat]

/-- Settles O36: in range Fx33 completes (`exec_ldB_inRange`) and its three bytes hold the digits. -/
theorem storeDigitsWritesThreeBytes : Obligations.StoreDigitsWritesThreeBytes := by
  intro s x hm hv hi
  refine ⟨_, exec_ldB_inRange hv x hi, ?_, ?_, ?_, fun a ha => ?_, rfl⟩
  · rw [State.byteAt_advance, State.byteAt_digitsStored hm _ (by omega) (by omega), Nat.sub_self]
    rfl
  · rw [State.byteAt_advance, State.byteAt_digitsStored hm _ (by omega) (by omega), Nat.add_sub_cancel_left]
    rfl
  · rw [State.byteAt_advance, State.byteAt_digitsStored hm _ (by omega) (by omega), Nat.add_sub_cancel_left]
    rfl
  · rw [State.byteAt_advance, State.byteAt_digitsStored_other _ _ ha]

/-- Settles O37: in range Fx65 completes with its registers loaded (`exec_ldRegs_inRange`). -/
theorem loadRegistersFromMemory : Obligations.LoadRegistersFromMemory := by
  intro s x hv hi
  obtain ⟨m, hm, hl⟩ := exec_ldRegs_inRange hv x hi
  refine ⟨_, hm, hl.loaded, hl.above, hl.index, ?_⟩
  rw [hl.frame]
  rfl

/-- Settles O38: a completed Fx33 has left its digits in memory, and the fetched word is its two bytes. -/
theorem storeIsSeenByTheNextFetch : Obligations.StoreIsSeenByTheNextFetch := by
  intro s t x pc hm _ h ht hpc
  obtain ⟨hi, rfl⟩ := exec_completed h ht
  have digit {a : Nat} (hlow : s.i.toNat ≤ a) (hhigh : a ≤ s.i.toNat + 2) :
      ((s.digitsStored (s.getV x)).byteAt a).toNat = storedDigit (s.getV x).toNat (a - s.i.toNat) :=
    State.byteAt_digitsStored hm _ hlow hhigh
  refine ⟨_, State.fetch16_inRange _ hpc, fun ⟨hlow, hhigh⟩ => ?_, fun ⟨hlow, hhigh⟩ => ?_⟩
  · exact (wordOfBytes_div _ _).trans (digit hlow hhigh)
  · exact (wordOfBytes_mod _ _).trans (digit hlow hhigh)

/-- Settles O19: MemRange out of range under INTENDED, the precise fault Unmodelled under REFUSE. -/
theorem indexInstructionsTrap : Obligations.IndexInstructionsTrap := by
  intro s x
  refine ⟨fun hv hi => ⟨_, exec_ldB_outOfRange hv x (by omega), rfl, rfl⟩, fun hv => ?_,
    fun hv hi => ⟨_, exec_ldRegs_outOfRange hv x hi, rfl, rfl⟩, fun hv => ?_⟩
  · rw [exec_ldB_refuse hv, State.raise_eq, s.faulted_precise _ rfl]
  · rw [exec_ldRegs_refuse hv, State.raise_eq, s.faulted_precise _ rfl]

end

section
/-! PROOFS. Framebuffer, keys and timers (44_framebuffer.md, 45_input_and_timers.md). -/

namespace Sys2Proof.Machine

theorem State.pixel_clearFB (s : State) (px py : Nat) : s.clearFB.pixel px py = pixOff := rfl

/-- With V[x] and V[y] unchanged, a second draw reads the same range, box and sprite as the first. -/
theorem Drawn.sprite_unmoved {s m : State} {x y : Reg} {box : Nat → Nat → Prop} {bit : Nat → Nat → Bool}
    (hd : Drawn s m box bit) (hx : m.getV x = s.getV x) (hy : m.getV y = s.getV y) (n : BitVec 4) :
    (drawInRange s x y n → drawInRange m.advance x y n) ∧ inBox m.advance x y n = inBox s x y n ∧
    spriteAt m.advance x y = spriteAt s x y := by
  have hi : m.i = s.i := by rw [hd.frame]
  have hbyte : ∀ a, m.byteAt a = s.byteAt a := fun a => by rw [hd.frame]; rfl
  refine ⟨fun h => ?_, ?_, ?_⟩
  · simpa only [drawInRange, State.eaI, State.getV_advance, State.advance_i, State.advance_cfg, hi, hx, hy, hd.cfg]
      using h
  · funext px py
    simp only [inBox, State.getV_advance, hx, hy]
  · funext px py
    simp only [spriteAt, State.getV_advance, State.byteAt_advance, State.advance_i, hi, hx, hy, hbyte]

/-- A sprite drawn over itself: every pixel of the box already holds its bit. -/
theorem Drawn.again {s m u : State} {box : Nat → Nat → Prop} {bit : Nat → Nat → Bool} (hd : Drawn s m box bit)
    (hs : s.fb.Pairwise (fun c e => c.1 < e.1)) (ha : Drawn m.advance u box bit) :
    (∀ r : Reg, u.getV r = m.getV r) ∧ ∀ px py, px < s.cfg.fbW → u.pixel px py = m.pixel px py := by
  constructor
  · intro r
    by_cases hr : r = 15
    · subst hr
      refine ha.miss ?_
      rintro ⟨px, py, hbox, hon, hbit⟩
      rw [State.pixel_advance, hd.on hs px py hbox, hbit] at hon
      cases hon
    · exact ha.regs r hr
  · intro px py hx
    by_cases hbox : box px py
    · rw [ha.on (hd.rising hs) px py hbox, hd.on hs px py hbox]
    · exact ha.off px py (by rwa [State.advance_cfg, hd.cfg]) hbox

/-- R85: after a completed execute phase DT loses one. -/
theorem State.afterExec_dt_toNat (i : Instr) {t : State} (hr : t.run = .running) :
    (t.afterExec i).dt.toNat = t.dt.toNat - 1 := by
  rw [State.afterExec_running i t hr]
  exact tickDown_toNat _

/-- R85: after a completed execute phase ST loses one. -/
theorem State.afterExec_st_toNat (i : Instr) {t : State} (hr : t.run = .running) :
    (t.afterExec i).st.toNat = t.st.toNat - 1 := by
  rw [State.afterExec_running i t hr]
  exact tickDown_toNat _

theorem State.skipIf_pc_ite (s : State) {c : Bool} {p : Prop} [Decidable p] (h : c = true ↔ p) :
    (s.skipIf c).pc.toNat = (s.pc.toNat + if p then 4 else 2) % 65536 := by
  rw [State.skipIf_pc_toNat]
  simp only [h]

end Sys2Proof.Machine

open Sys2Proof Sys2Proof.Machine

/-- Settles O39: an empty store reads as off everywhere, and 00E0 signals whatever was there. -/
theorem clearScreen : Obligations.ClearScreen := fun s =>
  ⟨_, exec_cls s, s.pixel_clearFB, rfl,
    fun hr => congrArg State.render (State.afterExec_running .cls s.clearFB.advance hr)⟩

/-- Settles O40: in range the draw completes (`exec_drw_inRange`), and `Drawn` says what it leaves. -/
theorem drawOverwritesTheBox : Obligations.DrawOverwritesTheBox := by
  intro s x y n ⟨⟨rising, _⟩, _⟩ hr
  obtain ⟨m, hm, hd⟩ := exec_drw_inRange hr
  refine ⟨_, hm, fun px py hx _ => ⟨hd.on rising px py, hd.off px py hx⟩, hd.hit, hd.miss, hd.regs, ?_⟩
  rw [hd.frame]
  rfl

/-- Settles O41: the second draw finds every pixel of the box at its bit already (`Drawn.again`). -/
theorem redrawChangesNothing : Obligations.RedrawChangesNothing := by
  intro s t x y n ⟨⟨rising, _⟩, _⟩ _ h ht hx hy
  obtain ⟨hr, m, hd, rfl⟩ := exec_completed h ht
  obtain ⟨hrange, hbox, hbit⟩ := hd.sprite_unmoved hx hy n
  obtain ⟨u, hu, ha⟩ := exec_drw_inRange (hrange hr)
  have hrun : u.run = .running := (congrArg State.run ha.frame).trans ht
  rw [hbox, hbit] at ha
  obtain ⟨hregs, hpixels⟩ := hd.again rising ha
  exact ⟨_, hu, hrun, hregs, fun px py hpx _ => hpixels px py hpx⟩

/-- Settles O20: `exec_drw_outOfRange` raises MemRange exactly when its row comes no later. -/
theorem drawOutOfRangeTraps : Obligations.DrawOutOfRangeTraps := by
  intro s x y n
  exact ⟨fun ⟨hlt, hle⟩ => ⟨_, exec_drw_outOfRange (min_lt_of_left_lt hlt), rfl, if_pos hle⟩,
    fun ⟨hlt, hfirst⟩ => ⟨_, exec_drw_outOfRange (min_lt_of_right_lt hlt), rfl, if_neg (Nat.not_le_of_lt hfirst)⟩⟩

/-- Settles O42: the slot that V[x] names decides the skip. -/
theorem keySkips : Obligations.KeySkips := by
  intro s x k h
  refine ⟨⟨_, exec_skp_slot k h, s.skipIf_frame _, s.skipIf_pc_ite Iff.rfl⟩,
    ⟨_, exec_sknp_slot k h, s.skipIf_frame _, s.skipIf_pc_ite (by simp)⟩⟩

/-- Settles O43: each instruction is one write, and then phase S4 takes one. -/
theorem timerReadsAndLoads : Obligations.TimerReadsAndLoads := by
  intro s x hr
  exact ⟨⟨_, exec_ldVxDT x s, rfl, State.afterExec_dt_toNat _ hr⟩,
    ⟨_, exec_ldDTVx x s, rfl, State.afterExec_dt_toNat _ hr⟩,
    ⟨_, exec_ldSTVx x s, rfl, State.afterExec_st_toNat _ hr⟩⟩

end
